-- ==== Sys2Proof/Word.lean ====
section
/-! DEFINITION. The machine's word, byte and byte-string types (spec/00_scope.md R8, R11, R12): a 32-bit host data word,
8-bit bytes, and byte strings of fixed length indexed from 0 at their first byte. -/

namespace Sys2Proof

/-- A byte. -/
abbrev Byte := BitVec 8

/-- A host data word: 32 bits (R8). -/
abbrev Word := BitVec 32

/-- A 64-bit slot of the data buffer as its eight bytes, first byte first (R13, R60). -/
abbrev Slot := Vector Byte 8

/-- A 128-bit cipher block as its sixteen bytes, first byte first (R33, R90). -/
abbrev Block := Vector Byte 16

/-- The 32-byte KEY field of a key-setup request (R90). -/
abbrev KeyField := Vector Byte 32

/-- The fixed-length vector whose entry `k` is `f k`. -/
def vec {α : Type} (n : Nat) (f : Nat → α) : Vector α n :=
  ⟨((List.range n).map f).toArray, by simp⟩

@[simp] theorem getElem_vec {α : Type} (n : Nat) (f : Nat → α) (k : Nat) (h : k < n) : (vec n f)[k] = f k := by
  simp [vec]

@[simp] theorem toList_vec {α : Type} (n : Nat) (f : Nat → α) : (vec n f).toList = (List.range n).map f := by
  simp [vec, Vector.toList]

end Sys2Proof
end

