-- ==== Sys2Proof/Config.lean ====
section
/-! DEFINITION. What an implementation fixes (spec/00_scope.md R7) and the free values: constants WITHOUT a body, so that no proof
can see a value and a claim holds whatever they are. -/

namespace Sys2Proof

/-- How the Host names the place it accesses: a register offset relative to BASE (R13, R67), or a whole bus address. -/
inductive BusAddr where
  | reg (off : Nat)
  | bus (addr : Nat)
  deriving DecidableEq, Repr, Inhabited

/-- One scheduling choice: which agent moves next, and for the Host what it does (R6). Widths are in bytes. -/
inductive Event where
  /-- The Engine is scheduled: it takes the step its state selects (R140). -/
  | engine
  /-- The AES agent is scheduled (R176, R177). -/
  | aes
  /-- The Arbiter is scheduled, and no other user holds the collaborator (R143). -/
  | arbiter
  /-- The Host reads `width` bytes (R110). -/
  | hostRead (addr : BusAddr) (width : Nat)
  /-- The Host writes `data`, `width` bytes wide (R111). -/
  | hostWrite (addr : BusAddr) (width : Nat) (data : Word)
  /-- The Host or the platform asserts reset (R240). -/
  | reset
  deriving DecidableEq, Repr, Inhabited

/-- The implementation parameters of R7. The first three fields are codes of `P_MIN_N`, `N_MAX` and `BASE` that take
in exactly the values the constraints of R7 allow (`Params.pMinN`, `Params.nMax`, `Params.base` of Machine/Operands.lean
read them). `keyOk` and `aesEnc` take the key length and the key bytes; `aesEnc` also takes the block. -/
structure Params where
  pMinCode : Fin 2
  nMaxCode : Fin 715827883
  baseCode : Nat
  keyOk    : BitVec 6 → List Byte → Bool
  aesEnc   : BitVec 6 → List Byte → Block → Block
  deriving Inhabited

/-- The parameters of the implementation at hand: the source fixes none of them (R7), so nothing is known of them (log
entry 7). -/
opaque Config.params : Params

/-- The free values of R16 (`draw()`): draw number `k`. Two draws have two numbers (log entry 5). -/
opaque Config.draw : Nat → Byte

/-- The environment's choices once nothing is on the agenda: choice number `k` (R6: any agent may be scheduled; log
entry 1). -/
opaque Config.freeEvent : Nat → Event

end Sys2Proof
end

