-- ==== Sys2Proof/Machine/State.lean ====
section
/-! DEFINITION. The state of the KWE (spec/10_state.md): every element of R20, then the model's own bookkeeping, all plain data. -/

namespace Sys2Proof.Machine

/-- The controller states (R26, R88). -/
inductive FsmState where
  | idle | acq | setkey | init | form | encwait | update | rel
  deriving DecidableEq, Repr

/-- The error codes (R87); the reserved codes 5 to 15 are never produced, so they have no name (log
entry 19). -/
inductive ErrCode where
  | none | keySetupFail | badN | badKeklen | illegalCmd
  deriving DecidableEq, Repr

/-- The reasons of the model faults of R220, which are recorded in the state and end no run by themselves. -/
inductive ModelFault where
  /-- The Engine would read a byte of R[i] that nothing wrote since reset (R147). -/
  | uninitBuf
  /-- An encryption request with no installed key (R177). -/
  | aesNoKey
  /-- A response that does not match the request (R175). -/
  | aesProtocol
  deriving DecidableEq, Repr

/-- The set `faults` of R39: one flag for each reason of R220. -/
structure FaultSet where
  uninitBuf   : Bool := false
  aesNoKey    : Bool := false
  aesProtocol : Bool := false
  deriving DecidableEq, Repr

/-- A request in `aes_req` (R89, R90): the two forms the Engine issues (log entry 20). -/
inductive AesReq where
  | setKey (klen : BitVec 6) (key : KeyField)
  | encrypt (blk : Block)
  deriving DecidableEq, Repr

/-- The field ROP of a message (R89, R91). -/
inductive Rop where
  | setKey | encrypt
  deriving DecidableEq, Repr

/-- A response in `aes_resp` (R91). -/
structure AesResp where
  rop : Rop
  ok  : Bool
  blk : Block
  deriving DecidableEq, Repr

/-- The data buffer: the written bytes, by rising offset. An offset that is not listed is unwritten since reset (R34,
R39: `written[b] = 0`) and has no value: the Host reads a draw there and the Engine records a model fault
(log entry 8). -/
abbrev Memory := List Host.Cell

/-- The state of R20. -/
structure State where
  /-- N (R21). -/
  n       : Word
  /-- KEKLEN (R22). -/
  kekLen  : BitVec 6
  /-- KEK0 to KEK7 (R23). -/
  kek     : Vector Word 8
  /-- The controller state (R26). -/
  st      : FsmState
  /-- DONE (R27). -/
  done    : Bool
  /-- ERR (R28). -/
  err     : Bool
  /-- ERRCODE (R29). -/
  errCode : ErrCode
  /-- The outer round counter j (R30). -/
  j       : BitVec 3
  /-- The inner block index i (R31). -/
  i       : Word
  /-- PEND (R32). -/
  pend    : ErrCode
  /-- The scratch block B (R33). -/
  b       : Block
  /-- BUF together with `written` (R34, R39). -/
  buf     : Memory
  /-- The request register of the AES port (R36). -/
  aesReq  : Option AesReq
  /-- The response register of the AES port (R36). -/
  aesResp : Option AesResp
  /-- The collaborator's installed key: its length and bytes (R37). -/
  aesKey  : Option (BitVec 6 × List Byte)
  /-- The Arbiter's grant (R38). -/
  gnt     : Bool
  /-- The recorded model faults (R39, R220). -/
  faults  : FaultSet
  /-- The refusal mark (R39, R64). -/
  refused : Bool
  /-- The model's own: what the last Host read returned, nothing where it was refused (log entry 6). -/
  busData : Option Word
  /-- The model's own: how many draws have been made (R16, log entry 5). -/
  draws   : Nat
  /-- The model's own: the scheduling choices already fixed, the next one first (log entry 1). -/
  agenda  : List Event
  /-- The model's own: how many free scheduling choices have been made (log entry 1). -/
  clock   : Nat
  deriving DecidableEq, Repr

/-- Why the machine stops. -/
inductive Fault where
  /-- Raised by FSM_FORM and FSM_UPDATE when they would touch `slot(i)` with `i > N_MAX`, a part of BUF that R60 says does
  not exist. Safe: the machine stops where the spec gives no effect, and R160 rules the state out (log entry 11). -/
  | bufRange
  deriving DecidableEq, Repr

/-- Why an instruction has no meaning. -/
inductive Refusal where
  /-- Raised only by an arm of `exec` that has no meaning yet; no arm is left that raises it. Safe: nothing can be proved of
  a step that is refused. -/
  | notModelled (mnemonic : String)
  deriving DecidableEq, Repr

/-- The outcome of a step of this machine. -/
abbrev Outcome := Host.Outcome State Fault Refusal

/-- The state right after reset at the start of a run (R240; `faults` and `refused` as R39 has them then). -/
def State.reset : State where
  n       := 0x00000000#32
  kekLen  := 0#6
  kek     := vec 8 fun _ => 0x00000000#32
  st      := .idle
  done    := false
  err     := false
  errCode := .none
  j       := 0#3
  i       := 0#32
  pend    := .none
  b       := vec 16 fun _ => 0x00#8
  buf     := []
  aesReq  := none
  aesResp := none
  aesKey  := none
  gnt     := false
  faults  := {}
  refused := false
  busData := none
  draws   := 0
  agenda  := []
  clock   := 0

end Sys2Proof.Machine
end

