-- ==== Sys2Proof/Machine/Ops.lean ====
section
/-! DEFINITION. The named operations on the buffer, the model faults, the AES port registers and the error flags
(spec/20_memory.md, spec/43_aes_serializer.md R170, spec/60_exceptions.md R215 to R221). -/

namespace Sys2Proof.Machine

/-! ## The data buffer -/

/-- What the buffer holds at an offset: nothing where no byte was written since reset (R34, R39). -/
def Memory.read : Memory → Nat → Option Byte
  | [], _ => none
  | (k, v) :: m, a => if k = a then some v else Memory.read m a

/-- One byte written (R39: the byte counts as written from then on). -/
def Memory.write : Memory → Nat → Byte → Memory
  | [], a, v => [(a, v)]
  | (k, w) :: m, a, v =>
    if a < k then (a, v) :: (k, w) :: m
    else if a = k then (a, v) :: m
    else (k, w) :: Memory.write m a v

/-- Bytes written from an offset upwards. -/
def Memory.writeBytes : Memory → Nat → List Byte → Memory
  | m, _, [] => m
  | m, a, v :: vs => Memory.writeBytes (Memory.write m a v) (a + 1) vs

/-- Every one of the `len` bytes from `a` on was written since reset (R39). -/
def Memory.written (m : Memory) (a len : Nat) : Bool :=
  (List.range len).all fun k => (Memory.read m (a + k)).isSome

/-- The canonical form: offsets strictly rising. An unlisted byte has no value, so no entry can equal one. -/
def Memory.wf : Memory → Bool
  | [] => true
  | [_] => true
  | (a, _) :: (b, v) :: m => a < b && Memory.wf ((b, v) :: m)

/-- A slot as it stands in the buffer, once all its eight bytes are written (R60). -/
def Memory.slot (m : Memory) (k : Nat) : Option Slot :=
  if Memory.written m (8 * k) 8 then some (vec 8 fun b => (Memory.read m (8 * k + b)).getD 0) else none

/-- The byte at offset `a`, where an unwritten byte reads as draw number `d` of this access (R16, R34, R121). -/
def State.byteAt (s : State) (a d : Nat) : Byte :=
  (Memory.read s.buf a).getD (Config.draw (s.draws + d))

/-- How many draws an access of the `len` bytes from `a` on uses up: none where all of them are written, else one number
for each byte, so that the next access has draws of its own (R16). -/
def State.drawCount (s : State) (a len : Nat) : Nat := if Memory.written s.buf a len then 0 else len

/-- Bytes written into BUF from offset `a` on (R13). -/
def State.writeBuf (s : State) (a : Nat) (bs : List Byte) : State :=
  { s with buf := Memory.writeBytes s.buf a bs }

/-! ## Model faults and refused accesses -/

/-- No model fault is recorded (R220). -/
def FaultSet.isEmpty (f : FaultSet) : Bool := !(f.uninitBuf || f.aesNoKey || f.aesProtocol)

/-- The set with one more reason in it (R39: none is ever removed). -/
def FaultSet.insert (f : FaultSet) : ModelFault → FaultSet
  | .uninitBuf => { f with uninitBuf := true }
  | .aesNoKey => { f with aesNoKey := true }
  | .aesProtocol => { f with aesProtocol := true }

/-- A reason is in the set. -/
def FaultSet.mem (f : FaultSet) : ModelFault → Bool
  | .uninitBuf => f.uninitBuf
  | .aesNoKey => f.aesNoKey
  | .aesProtocol => f.aesProtocol

/-- A model fault is recorded and nothing else changes (R220: `faults <- faults ∪ {r}; return`; log entry 4). -/
def State.recordFault (s : State) (r : ModelFault) : State := { s with faults := s.faults.insert r }

/-- A host access the model does not admit: the mark is set and nothing else changes (R64, R221). -/
def State.refuse (s : State) : State := { s with refused := true }

/-! ## The AES port registers (R36) -/

/-- Both holding registers are empty: the precondition of `issue` (R170). -/
def State.portEmpty (s : State) : Bool := s.aesReq.isNone && s.aesResp.isNone

/-- `issue(req)` (R170). -/
def State.issue (s : State) (req : AesReq) : State := { s with aesReq := some req }

/-- The Engine consumes the response (R145, R148). -/
def State.takeResp (s : State) : State := { s with aesResp := none }

/-- The AES agent answers: the request moves to a response (R36, R176, R177). -/
def State.respond (s : State) (r : AesResp) : State := { s with aesReq := none, aesResp := some r }

/-! ## Taking an error, and leaving it -/

/-- The error path that stands for trap entry (R215): ERR and ERRCODE record the error, and nothing else is saved. -/
def State.raiseError (s : State) (code : ErrCode) : State := { s with err := true, errCode := code }

/-- An error at a command (R215: `DONE <- 0; ERR <- 1; ERRCODE <- code`, the controller staying in IDLE). -/
def State.rejectCommand (s : State) (code : ErrCode) : State := { s with done := false }.raiseError code

/-- What an accepted WRAP does to the flags, the only "return" from an error (R124, R217). -/
def State.clearFlags (s : State) : State :=
  { s with done := false, err := false, errCode := .none, pend := .none }

end Sys2Proof.Machine
end

