-- ==== Sys2Proof/Machine/Flags.lean ====
section
/-! DEFINITION. The status flags and code values (spec/10_state.md R25, R35, R42; spec/30_encoding.md R82, R87, R88, R89, R91). -/

namespace Sys2Proof.Machine

/-- The 4-bit code of an error (R87). -/
def ErrCode.code : ErrCode → BitVec 4
  | .none => 0
  | .keySetupFail => 1
  | .badN => 2
  | .badKeklen => 3
  | .illegalCmd => 4

/-- The 4-bit code of a controller state (R88). -/
def FsmState.code : FsmState → BitVec 4
  | .idle => 0x0
  | .acq => 0x1
  | .setkey => 0x2
  | .init => 0x3
  | .form => 0x4
  | .encwait => 0x5
  | .update => 0x6
  | .rel => 0x7

/-- The ROP field (R89). -/
def Rop.code : Rop → BitVec 2
  | .setKey => 0b00
  | .encrypt => 0b01

/-- The header of a response: ROP [1:0], OK [2], zero [7:3] (R91). -/
def AesResp.header (r : AesResp) : Byte := (0 : BitVec 5) ++ BitVec.ofBool r.ok ++ r.rop.code

/-- BUSY (R25). -/
def State.busy (s : State) : Bool := s.st != .idle

/-- The Engine's request to the Arbiter (R35). -/
def State.acqReq (s : State) : Bool := s.st != .idle

/-- The Engine holds the AES resource (R35). -/
def State.held (s : State) : Bool :=
  match s.st with
  | .idle | .acq => false
  | .setkey | .init | .form | .encwait | .update | .rel => true

/-- A flag as a word. -/
def flagWord (f : Bool) : Word := (BitVec.ofBool f).setWidth 32

/-- The STATUS word: BUSY, DONE<<1, ERR<<2, ERRCODE<<4, STATE<<8 (R82, R113). -/
def State.statusWord (s : State) : Word :=
  flagWord s.busy ||| flagWord s.done <<< 1 ||| flagWord s.err <<< 2
    ||| s.errCode.code.setWidth 32 <<< 4 ||| s.st.code.setWidth 32 <<< 8

/-- The Engine may take the step of state `x`: it is in that state and no model fault is recorded (R140, R220). -/
def State.engineIn (s : State) (x : FsmState) : Bool := s.faults.isEmpty && s.st == x

end Sys2Proof.Machine
end

