-- ==== Sys2Proof/Syntax.lean ====
section
/-! DEFINITION. The "instructions" of the AES Key Wrap engine (spec/00_scope.md R1, spec/opcode_table.json): the three decodings of a
CMD word, the two request opcodes of the AES port with their payloads, and the eight controller states, each of which
selects one Engine step. -/

namespace Sys2Proof

/-- One constructor per row of spec/opcode_table.json. -/
inductive Instr where
  /-- NOP: CMD word 0x00000000 (R81, R123). -/
  | nop
  /-- WRAP: CMD word 0x00000001 (R81, R124). -/
  | wrap
  /-- ILLEGAL_CMD: any other CMD word (R81, R94, R125). -/
  | illegalCmd (word : Word)
  /-- AES_SETKEY: AES request header 0x00, with its payload KLEN and KEY (R89, R90, R176). -/
  | aesSetkey (klen : BitVec 6) (key : KeyField)
  /-- AES_ENCRYPT: AES request header 0x01, with its payload BLK (R89, R90, R177). -/
  | aesEncrypt (blk : Block)
  /-- FSM_IDLE: state code 0x0 (R88, R141). -/
  | fsmIdle
  /-- FSM_ACQ: state code 0x1 (R88, R144). -/
  | fsmAcq
  /-- FSM_SETKEY: state code 0x2 (R88, R145). -/
  | fsmSetkey
  /-- FSM_INIT: state code 0x3 (R88, R146). -/
  | fsmInit
  /-- FSM_FORM: state code 0x4 (R88, R147). -/
  | fsmForm
  /-- FSM_ENCWAIT: state code 0x5 (R88, R148). -/
  | fsmEncwait
  /-- FSM_UPDATE: state code 0x6 (R88, R149). -/
  | fsmUpdate
  /-- FSM_REL: state code 0x7 (R88, R152). -/
  | fsmRel
  deriving DecidableEq, Repr

end Sys2Proof
end

