-- ==== Sys2Proof/WellFormed.lean ====
section
/-! DEFINITION. Which instructions the encodings admit (spec/30_encoding.md R81, R90; spec/43_aes_serializer.md R172). -/

namespace Sys2Proof

/-- The KEY field is zero from byte `klen` on (R90: "KEY bytes KLEN..31 are zero"). -/
def keyPadded (klen : BitVec 6) (key : KeyField) : Bool :=
  (key.toList.drop klen.toNat).all (· == 0)

/-- An instruction the encodings admit: an illegal command is no NOP and no WRAP word (R81); a key-setup request has a
length of at most 32 (R172) and a zero-padded key (R90). -/
def Instr.wellFormed : Instr → Bool
  | .illegalCmd w => w != 0 && w != 1
  | .aesSetkey klen key => klen.toNat ≤ 32 && keyPadded klen key
  | .nop | .wrap | .aesEncrypt _ | .fsmIdle | .fsmAcq | .fsmSetkey | .fsmInit | .fsmForm
  | .fsmEncwait | .fsmUpdate | .fsmRel => true

end Sys2Proof
end

