-- ==== Sys2Proof/Decode.lean ====
section
/-! DEFINITION. Decoding and encoding (spec/30_encoding.md sections 1 to 5). The KWE has three places an "instruction" comes from, each
with a format of its own: a CMD word on the host bus (R81), a message in the AES request register (R89, R90) and the
controller's state code (R88). A decoder takes the format and the bytes, answers the instruction and the bytes left
over, and rejects by name. -/

namespace Sys2Proof

/-- The three formats that hold instructions (R80). -/
inductive Format where
  | cmd
  | aesReq
  | fsmState
  deriving DecidableEq, Repr

/-- Why bytes are no instruction of a format. -/
inductive DecodeError where
  /-- Fewer bytes than the format has. -/
  | short
  /-- ROP 0b10 or 0b11 (R89). -/
  | reservedRop
  /-- MODE 1, the decrypt direction (R89). -/
  | reservedMode
  /-- Header bits [7:3] not zero (R89). -/
  | headerBits
  /-- Bits above the 6-bit KLEN field not zero (R90). -/
  | klenBits
  /-- Bits above the 4-bit state code not zero (R88). -/
  | stateBits
  /-- State codes 0x8 to 0xF (R88). -/
  | reservedState
  deriving DecidableEq, Repr

/-- Byte lane `b` of a word: bits [8b+7:8b] (R62). -/
def lane (w : Word) (b : Nat) : Byte := w.extractLsb' (8 * b) 8

/-- The word whose lanes 0 to 3 are the four bytes (R62). -/
def ofLanes (b0 b1 b2 b3 : Byte) : Word := b3 ++ b2 ++ b1 ++ b0

/-- A CMD word, read whole (R81: OP alone does not decide). -/
def decodeCmd (w : Word) : Instr :=
  if w = 0x00000000#32 then .nop
  else if w = 0x00000001#32 then .wrap
  else .illegalCmd w

/-- The step a 4-bit state code enables (R88). -/
def decodeState (code : BitVec 4) : Except DecodeError Instr :=
  if code = 0x0#4 then .ok .fsmIdle
  else if code = 0x1#4 then .ok .fsmAcq
  else if code = 0x2#4 then .ok .fsmSetkey
  else if code = 0x3#4 then .ok .fsmInit
  else if code = 0x4#4 then .ok .fsmForm
  else if code = 0x5#4 then .ok .fsmEncwait
  else if code = 0x6#4 then .ok .fsmUpdate
  else if code = 0x7#4 then .ok .fsmRel
  else .error .reservedState

/-- The first `n` bytes as a vector, and the rest. -/
def takeBytes (n : Nat) (bs : List Byte) : Option (Vector Byte n × List Byte) :=
  if h : n ≤ bs.length then some (⟨(bs.take n).toArray, by simp [h]⟩, bs.drop n) else none

/-- The payload of a key-setup request: KLEN in a byte of its own, then the 32 KEY bytes (R90). -/
def decodeSetkey : List Byte → Except DecodeError (Instr × List Byte)
  | [] => .error .short
  | k :: bs =>
    if k.extractLsb' 6 2 = 0#2 then
      match takeBytes 32 bs with
      | some (key, rest) => .ok (.aesSetkey (k.extractLsb' 0 6) key, rest)
      | none => .error .short
    else .error .klenBits

/-- The payload of an encryption request: the 16 BLK bytes (R90). -/
def decodeEncrypt (bs : List Byte) : Except DecodeError (Instr × List Byte) :=
  match takeBytes 16 bs with
  | some (blk, rest) => .ok (.aesEncrypt blk, rest)
  | none => .error .short

/-- An AES request: the header's fields ROP [1:0], MODE [2] and zero [7:3] (R89), then the payload (R90). -/
def decodeAesReq : List Byte → Except DecodeError (Instr × List Byte)
  | [] => .error .short
  | h :: bs =>
    if h.extractLsb' 3 5 ≠ 0#5 then .error .headerBits
    else if h.extractLsb' 2 1 ≠ 0#1 then .error .reservedMode
    else if h.extractLsb' 0 2 = 0b00#2 then decodeSetkey bs
    else if h.extractLsb' 0 2 = 0b01#2 then decodeEncrypt bs
    else .error .reservedRop

/-- A state code in the low half of a byte (R88). -/
def decodeStateByte : List Byte → Except DecodeError (Instr × List Byte)
  | [] => .error .short
  | c :: bs =>
    if c.extractLsb' 4 4 = 0#4 then
      match decodeState (c.extractLsb' 0 4) with
      | .ok i => .ok (i, bs)
      | .error e => .error e
    else .error .stateBits

/-- The decoder: total on any bytes of any format. -/
def decode : Format → List Byte → Except DecodeError (Instr × List Byte)
  | .cmd, b0 :: b1 :: b2 :: b3 :: bs => .ok (decodeCmd (ofLanes b0 b1 b2 b3), bs)
  | .cmd, _ => .error .short
  | .aesReq, bs => decodeAesReq bs
  | .fsmState, bs => decodeStateByte bs

/-- The format an instruction belongs to (spec/opcode_table.json, "format"). -/
def Instr.format : Instr → Format
  | .nop | .wrap | .illegalCmd _ => .cmd
  | .aesSetkey _ _ | .aesEncrypt _ => .aesReq
  | .fsmIdle | .fsmAcq | .fsmSetkey | .fsmInit | .fsmForm | .fsmEncwait | .fsmUpdate | .fsmRel => .fsmState

/-- A word's bytes, lane 0 first (R62). -/
def wordBytes (w : Word) : List Byte := [lane w 0, lane w 1, lane w 2, lane w 3]

/-- The bytes of an instruction, from the same tables (R81, R88, R89, R90). -/
def encode : Instr → List Byte
  | .nop => wordBytes 0x00000000#32
  | .wrap => wordBytes 0x00000001#32
  | .illegalCmd w => wordBytes w
  | .aesSetkey klen key => 0x00#8 :: klen.setWidth 8 :: key.toList
  | .aesEncrypt blk => 0x01#8 :: blk.toList
  | .fsmIdle => [0x00#8]
  | .fsmAcq => [0x01#8]
  | .fsmSetkey => [0x02#8]
  | .fsmInit => [0x03#8]
  | .fsmForm => [0x04#8]
  | .fsmEncwait => [0x05#8]
  | .fsmUpdate => [0x06#8]
  | .fsmRel => [0x07#8]

/-- The instruction a decoding answers, if it answers one. -/
def decodedInstr (r : Except DecodeError (Instr × List Byte)) : Option Instr :=
  match r with
  | .ok (i, _) => some i
  | .error _ => none

/-- The instruction of a row of spec/opcode_table.json whose bits are `w`: 32 bits name a CMD word, 4 bits a state code, 8 bits an AES
request header with a payload of zeros. A state code padded to a whole byte is read as one where it is no header
the Engine issues (log entry 10). -/
def decodeTableWord (nbits w : Nat) : Option Instr :=
  if nbits = 32 then decodedInstr (decode .cmd (wordBytes (BitVec.ofNat 32 w)))
  else if nbits = 4 then decodedInstr (decode .fsmState [BitVec.ofNat 8 w])
  else if nbits = 8 then
    match decodedInstr (decode .aesReq (BitVec.ofNat 8 w :: List.replicate 33 0#8)) with
    | some i => some i
    | none => decodedInstr (decode .fsmState [BitVec.ofNat 8 w])
  else none

end Sys2Proof
end

