-- ==== Sys2Proof/Machine/Operands.lean ====
section
/-! DEFINITION. Parameters read off their codes (spec/00_scope.md R7), byte orders (R12, spec/20_memory.md R61 to R63), the operands of an operation
(spec/30_encoding.md R93), the counter (spec/42_loop_controller.md R150) and the host's address decoding (R67, R92). -/

namespace Sys2Proof

/-! ## The parameters of R7 -/

/-- `P_MIN_N`, 1 or 2. -/
def Params.pMinN (p : Params) : Nat := p.pMinCode.val + 1

/-- `N_MAX`, from `P_MIN_N` to 715827882. -/
def Params.nMax (p : Params) : Nat := max p.pMinN p.nMaxCode.val

/-- `BASE`, a multiple of 4. -/
def Params.base (p : Params) : Nat := 4 * p.baseCode

/-- The size of BUF in bytes (R34, R60). -/
def Params.bufBytes (p : Params) : Nat := 8 * (p.nMax + 1)

/-- `WINDOW_BYTES` (R67). -/
def Params.windowBytes (p : Params) : Nat := 0x100 + p.bufBytes

namespace Machine

/-! ## Byte orders -/

/-- The 64-bit number whose most significant byte is byte 0 (R12, R61). -/
def be64 (s : Slot) : BitVec 64 :=
  s[0] ++ s[1] ++ s[2] ++ s[3] ++ s[4] ++ s[5] ++ s[6] ++ s[7]

/-- The bytes of a 64-bit number, most significant first (R12). -/
def be64inv (v : BitVec 64) : Slot := vec 8 fun b => v.extractLsb' (8 * (7 - b)) 8

/-- `x ‖ y` (R12, R193). -/
def joinSlots (x y : Slot) : Block :=
  #v[x[0], x[1], x[2], x[3], x[4], x[5], x[6], x[7], y[0], y[1], y[2], y[3], y[4], y[5], y[6], y[7]]

/-- Bytes 0 to 7 of a block. -/
def hiSlot (x : Block) : Slot := #v[x[0], x[1], x[2], x[3], x[4], x[5], x[6], x[7]]

/-- Bytes 8 to 15 of a block. -/
def loSlot (x : Block) : Slot := #v[x[8], x[9], x[10], x[11], x[12], x[13], x[14], x[15]]

/-! ## The key operand -/

/-- KEK byte `m`: lane `m mod 4` of KEK(m div 4) (R63, R93). -/
def kekByte (kek : Vector Word 8) (m : Nat) : Byte := lane (kek[m / 4]?.getD 0) (m % 4)

/-- The KEY field: the first `kl` KEK bytes, then zeros (R90, R172). -/
def keyField (kek : Vector Word 8) (kl : BitVec 6) : KeyField :=
  vec 32 fun m => if m < kl.toNat then kekByte kek m else 0

/-- `key[0..kl-1]` (R176; log entry 18 where `kl` is above 32). -/
def keyBytes (kl : BitVec 6) (key : KeyField) : List Byte := key.toList.take kl.toNat

/-! ## The counter and the loop indices -/

/-- `Counter(n, j, i) = (n *_32 zext_32(j)) +_32 i` (R150). -/
def counter (n : Word) (j : BitVec 3) (i : Word) : Word := n * j.setWidth 32 + i

/-- `Advance(j, i, n)` (R151). -/
def advance (j : BitVec 3) (i n : Word) : BitVec 3 × Word × FsmState :=
  if i < n then (j, i + 1, .form)
  else if j < 5 then (j + 1, 1, .form)
  else (j, i, .rel)

/-! ## The host's addresses -/

/-- The offset relative to BASE an address names (R67); an address below BASE names none (log entry 17). -/
def busOffset (p : Params) : BusAddr → Option Nat
  | .reg off => some off
  | .bus addr => if p.base ≤ addr then some (addr - p.base) else none

/-- What an access selects (R92). -/
inductive Target where
  | cmd
  | status
  | n
  | kekLen
  | kek (k : Fin 8)
  | buf (w : Nat)
  | reserved
  deriving DecidableEq, Repr

/-- The class of an aligned offset, none outside the window (R67, R92). -/
def target (p : Params) (off : Nat) : Option Target :=
  if off = 0x000 then some .cmd
  else if off = 0x004 then some .status
  else if off = 0x008 then some .n
  else if off = 0x00C then some .kekLen
  else if h : 0x020 ≤ off ∧ off < 0x040 then some (.kek ⟨(off - 0x020) / 4, by omega⟩)
  else if off < 0x100 then some .reserved
  else if off < p.windowBytes then some (.buf ((off - 0x100) / 4))
  else none

/-- What an access of `width` bytes selects, none where it is refused: another width than 32 bits, an offset that is no
multiple of 4, or a place outside the window (R64, R68, R110, R111). -/
def access (p : Params) (a : BusAddr) (width : Nat) : Option Target :=
  match busOffset p a with
  | none => none
  | some off => if width = 4 ∧ off % 4 = 0 then target p off else none

end Machine

end Sys2Proof
end

