-- ==== Sys2Proof/Machine/Commands.lean ====
section
/-! DEFINITION. The commands (spec/41_host_commands.md R123 to R126). Each is the effect of a CMD write; while BUSY every one of them is dropped
(R126). -/

namespace Sys2Proof.Machine

/-- WRAP accepted or rejected (R124; the checks in the order of R216), dropped while BUSY (R126). -/
def wrapCommand (p : Params) (s : State) : State :=
  if s.busy then s
  else if s.n.toNat < p.pMinN ∨ p.nMax < s.n.toNat then s.rejectCommand .badN
  else if 32 < s.kekLen.toNat then s.rejectCommand .badKeklen
  else { s.clearFlags with st := .acq }

/-- An illegal command while idle (R125, R214), dropped while BUSY (R126). -/
def illegalCommand (s : State) : State :=
  if s.busy then s else s.rejectCommand .illegalCmd

/-- NOP (R123): no state change; the same while BUSY (R126). -/
def execNop (s : State) : Outcome := .next s

/-- WRAP (R124, R126). -/
def execWrap (s : State) : Outcome := .next (wrapCommand Config.params s)

/-- An illegal command (R125, R126). The word is not recorded (R214, log entry 22). -/
def execIllegalCmd (_word : Word) (s : State) : Outcome := .next (illegalCommand s)

end Sys2Proof.Machine
end

