-- ==== Sys2Proof/Machine/AesPort.lean ====
section
/-! DEFINITION. The AES-ECB request serializer (spec/43_aes_serializer.md): the two requests, and the AES agent's two steps, which are the
meanings of the request opcodes. -/

namespace Sys2Proof.Machine

/-- `SetKeyReq(KEKLEN)` (R172). -/
def setKeyReq (s : State) : AesReq := .setKey s.kekLen (keyField s.kek s.kekLen)

/-- The request register holds exactly this request, the response register is empty and no model fault is recorded: the
AES agent's enabling condition (R176, R177, R220). -/
def State.aesAsked (s : State) (req : AesReq) : Bool :=
  s.faults.isEmpty && s.aesReq == some req && s.aesResp.isNone

/-- The AES agent's key setup (R176). -/
def setKeyStep (p : Params) (klen : BitVec 6) (key : KeyField) (s : State) : State :=
  if s.aesAsked (.setKey klen key) then
    { s.respond { rop := .setKey, ok := p.keyOk klen (keyBytes klen key), blk := vec 16 fun _ => 0 } with
      aesKey := if p.keyOk klen (keyBytes klen key) then some (klen, keyBytes klen key) else none }
  else s

/-- The AES agent's block encryption (R177; it never fails, R178, log entry 15); with no key installed it records AES_NOKEY. -/
def encryptStep (p : Params) (blk : Block) (s : State) : State :=
  if s.aesAsked (.encrypt blk) then
    match s.aesKey with
    | none => s.recordFault .aesNoKey
    | some (kl, k) => s.respond { rop := .encrypt, ok := true, blk := p.aesEnc kl k blk }
  else s

/-- AES_SETKEY (R176). -/
def execAesSetkey (klen : BitVec 6) (key : KeyField) (s : State) : Outcome :=
  .next (setKeyStep Config.params klen key s)

/-- AES_ENCRYPT (R177). -/
def execAesEncrypt (blk : Block) (s : State) : Outcome := .next (encryptStep Config.params blk s)

end Sys2Proof.Machine
end

