-- ==== Sys2Proof/Machine/Buffer.lean ====
section
/-! DEFINITION. The integrity register updater, the block multiplexer and the buffer manager (spec/44_integrity_and_buffer.md R190 to R196): the
data-path functions the controller's steps call. -/

namespace Sys2Proof.Machine

/-- `A_INIT` as bytes (R190). -/
def aInit : Slot := vec 8 fun _ => 0xA6#8

/-- `InitA()` (R191). -/
def initA (s : State) : State := s.writeBuf 0 aInit.toList

/-- `SlotSel(i) = 8*i` (R192). -/
def slotSel (i : Word) : Nat := 8 * i.toNat

/-- The block `A ‖ R[i]` as the buffer has it (R193). A byte of slot 0 that nothing wrote is a draw (R34, log entry 12);
the bytes of R[i] are all written when this is called (R147). -/
def formedBlock (i : Word) (s : State) : Block :=
  joinSlots (vec 8 fun b => s.byteAt b b) (vec 8 fun b => s.byteAt (slotSel i + b) (8 + b))

/-- `FormBlock(i)` (R193). -/
def formBlock (i : Word) (s : State) : State := 
  { s with b := formedBlock i s, draws := s.draws + s.drawCount 0 8 }

/-- Bytes 0 to 7 of B with the counter folded into bytes 4 to 7, byte by byte (R194). -/
def foldCounter (b : Block) (t : Word) : Slot :=
  #v[b[0], b[1], b[2], b[3],
     b[4] ^^^ t.extractLsb' 24 8, b[5] ^^^ t.extractLsb' 16 8, b[6] ^^^ t.extractLsb' 8 8, b[7] ^^^ t.extractLsb' 0 8]

/-- `UpdateA(t)` (R194). -/
def updateA (t : Word) (s : State) : State := s.writeBuf 0 (foldCounter s.b t).toList

/-- `WriteBackR(i)` (R196). -/
def writeBackR (i : Word) (s : State) : State := s.writeBuf (slotSel i) (loSlot s.b).toList

end Sys2Proof.Machine
end

