-- ==== Sys2Proof/Machine/Controller.lean ====
section
/-! DEFINITION. The loop controller (spec/42_loop_controller.md R140 to R152): one Engine step for each controller state. A step whose enabling condition
does not hold leaves the state as it is: the Engine is held (R140, log entry 3). -/

namespace Sys2Proof.Machine

/-- ACQ: take the grant and issue the key setup (R144). -/
def acqStep (s : State) : State :=
  if s.engineIn .acq && s.gnt && s.portEmpty then { s.issue (setKeyReq s) with st := .setkey } else s

/-- SETKEY: consume the key-setup response (R145); a response of another kind is the model fault AES_PROTOCOL (R175, log
entry 13). -/
def setkeyStep (s : State) : State :=
  if s.engineIn .setkey then
    match s.aesResp with
    | none => s
    | some r =>
      match r.rop with
      | .setKey =>
        if r.ok then { s.takeResp with st := .init }
        else { s.takeResp with pend := .keySetupFail, st := .rel }
      | .encrypt => s.recordFault .aesProtocol
  else s

/-- INIT: initialise A and the counters (R146). -/
def initStep (s : State) : State :=
  if s.engineIn .init then { initA s with j := 0, i := 1, st := .form } else s

/-- FORM: form the block and issue the encryption (R147); a byte of R[i] that nothing wrote is the model fault UNINIT_BUF,
and a slot that BUF does not have stops the machine (log entry 11). -/
def formStep (p : Params) (s : State) : Outcome :=
  if s.engineIn .form && s.portEmpty then
    if p.nMax < s.i.toNat then .fault .bufRange
    else if Memory.written s.buf (slotSel s.i) 8 then
      .next { (formBlock s.i s).issue (.encrypt (formedBlock s.i s)) with st := .encwait }
    else .next (s.recordFault .uninitBuf)
  else .next s

/-- ENCWAIT: take the cipher output into B (R148), its OK bit ignored (R178); a response of another kind is the model
fault AES_PROTOCOL (R175, log entry 13). -/
def encwaitStep (s : State) : State :=
  if s.engineIn .encwait then
    match s.aesResp with
    | none => s
    | some r =>
      match r.rop with
      | .encrypt => { s.takeResp with b := r.blk, st := .update }
      | .setKey => s.recordFault .aesProtocol
  else s

/-- The write-back of an iteration: A with the counter folded in, then R[i], from the B the step began with (R149; the order
matters only for `i = 0`, log entry 23). -/
def writeBack (s : State) : State := writeBackR s.i (updateA (counter s.n s.j s.i) s)

/-- UPDATE: write back A and R[i], and advance (R149); a slot that BUF does not have stops the machine. -/
def updateStep (p : Params) (s : State) : Outcome :=
  if s.engineIn .update then
    if p.nMax < s.i.toNat then .fault .bufRange
    else
      match advance s.j s.i s.n with
      | (j', i', st') => .next { writeBack s with j := j', i := i', st := st' }
  else .next s

/-- What REL reports: success, or the error that PEND holds (R152). -/
def report (s : State) : State :=
  if s.pend = .none then { s with done := true } else s.raiseError s.pend

/-- REL: release the resource and report (R152). -/
def relStep (s : State) : State :=
  if s.engineIn .rel then { report s with st := .idle, gnt := false } else s

/-- FSM_IDLE: the Engine has no step in IDLE (R141). -/
def execFsmIdle (s : State) : Outcome := .next s

/-- FSM_ACQ (R144). -/
def execFsmAcq (s : State) : Outcome := .next (acqStep s)

/-- FSM_SETKEY (R145). -/
def execFsmSetkey (s : State) : Outcome := .next (setkeyStep s)

/-- FSM_INIT (R146). -/
def execFsmInit (s : State) : Outcome := .next (initStep s)

/-- FSM_FORM (R147). -/
def execFsmForm (s : State) : Outcome := formStep Config.params s

/-- FSM_ENCWAIT (R148). -/
def execFsmEncwait (s : State) : Outcome := .next (encwaitStep s)

/-- FSM_UPDATE (R149). -/
def execFsmUpdate (s : State) : Outcome := updateStep Config.params s

/-- FSM_REL (R152). -/
def execFsmRel (s : State) : Outcome := .next (relStep s)

end Sys2Proof.Machine
end

