-- ==== Sys2Proof/Machine/Dispatch.lean ====
section
/-! DEFINITION. The meaning of each instruction, one arm per constructor of Instr. -/

namespace Sys2Proof.Machine

def exec (i : Instr) (s : State) : Host.Outcome State Fault Refusal :=
  match i with
  | .nop => Sys2Proof.Machine.execNop s
  | .wrap => Sys2Proof.Machine.execWrap s
  | .illegalCmd w => Sys2Proof.Machine.execIllegalCmd w s
  | .aesSetkey klen key => Sys2Proof.Machine.execAesSetkey klen key s
  | .aesEncrypt blk => Sys2Proof.Machine.execAesEncrypt blk s
  | .fsmIdle => Sys2Proof.Machine.execFsmIdle s
  | .fsmAcq => Sys2Proof.Machine.execFsmAcq s
  | .fsmSetkey => Sys2Proof.Machine.execFsmSetkey s
  | .fsmInit => Sys2Proof.Machine.execFsmInit s
  | .fsmForm => Sys2Proof.Machine.execFsmForm s
  | .fsmEncwait => Sys2Proof.Machine.execFsmEncwait s
  | .fsmUpdate => Sys2Proof.Machine.execFsmUpdate s
  | .fsmRel => Sys2Proof.Machine.execFsmRel s

end Sys2Proof.Machine
end

