-- ==== Sys2Proof/Machine/HostPort.lean ====
section
/-! DEFINITION. The Host's register accesses (spec/41_host_commands.md R110 to R122, R127). A CMD write is a command: it is fetched and executed as
an instruction (Machine/Schedule.lean, Machine/Commands.lean). -/

namespace Sys2Proof.Machine

/-- RD BUF word `w` (R121): zero while BUSY, else the four bytes, an unwritten one as a draw. -/
def readBufWord (w : Nat) (s : State) : Word :=
  if s.busy then 0
  else ofLanes (s.byteAt (4 * w) 0) (s.byteAt (4 * w + 1) 1) (s.byteAt (4 * w + 2) 2) (s.byteAt (4 * w + 3) 3)

/-- What a read of a target returns: CMD R112, STATUS R113, N R115, KEKLEN R117, KEKk R119, BUF R121, reserved R127. -/
def readValue (s : State) : Target → Word
  | .cmd => 0
  | .status => s.statusWord
  | .n => s.n
  | .kekLen => s.kekLen.setWidth 32
  | .kek _ => 0
  | .buf w => readBufWord w s
  | .reserved => 0

/-- How many draws a read uses up: those of unwritten BUF bytes read while idle (R121). -/
def readDraws (s : State) : Target → Nat
  | .buf w => if s.busy then 0 else s.drawCount (4 * w) 4
  | .cmd | .status | .n | .kekLen | .kek _ | .reserved => 0

/-- `MemRead(off, w)` (R110): a refused access returns no value. -/
def hostRead (p : Params) (a : BusAddr) (width : Nat) (s : State) : State :=
  match access p a width with
  | none => { s.refuse with busData := none }
  | some t => { s with busData := some (readValue s t), draws := s.draws + readDraws s t }

/-- WR N (R116). -/
def writeN (v : Word) (s : State) : State := if s.busy then s else { s with n := v }

/-- WR KEKLEN (R118). -/
def writeKekLen (v : Word) (s : State) : State := if s.busy then s else { s with kekLen := v.setWidth 6 }

/-- WR KEKk (R120). -/
def writeKek (k : Fin 8) (v : Word) (s : State) : State := if s.busy then s else { s with kek := s.kek.set k v }

/-- WR BUF word `w` (R122). -/
def writeBufWord (w : Nat) (v : Word) (s : State) : State :=
  if s.busy then s else s.writeBuf (4 * w) (wordBytes v)

/-- What a write to a target does, but for a command: STATUS R114, N R116, KEKLEN R118, KEKk R120, BUF R122, reserved
R127. A CMD write is executed as the instruction its word decodes to (R111), so here it does nothing more. -/
def writeTarget (v : Word) (s : State) : Target → State
  | .cmd => s
  | .status => s
  | .n => writeN v s
  | .kekLen => writeKekLen v s
  | .kek k => writeKek k v s
  | .buf w => writeBufWord w v s
  | .reserved => s

/-- `MemWrite(off, w, v)` (R111), but for a command. -/
def hostWrite (p : Params) (a : BusAddr) (width : Nat) (v : Word) (s : State) : State :=
  match access p a width with
  | none => s.refuse
  | some t => writeTarget v s t

end Sys2Proof.Machine
end

