-- ==== Sys2Proof/Machine/Platform.lean ====
section
/-! DEFINITION. The steps of the platform: the Arbiter's grant (spec/42_loop_controller.md R143) and reset (spec/70_reset_and_hazards.md R240, R241). -/

namespace Sys2Proof.Machine

/-- The Arbiter's grant (R143). That no other user holds the collaborator is the Arbiter's own condition: its being
scheduled says so (log entry 16). -/
def arbiterStep (s : State) : State :=
  if s.acqReq && !s.gnt then { s with gnt := true } else s

/-- The reset event (R240): every element of R20 at its reset value, `faults` and `refused` unchanged (R39). What is not the
KWE's (the Host's last datum, the numbers of draws and choices made, the agenda) is not reset (log entries 14, 21). -/
def resetStep (s : State) : State :=
  { State.reset with
    faults := s.faults, refused := s.refused,
    busData := s.busData, draws := s.draws, agenda := s.agenda, clock := s.clock }

end Sys2Proof.Machine
end

