-- ==== Sys2Proof/Machine/Schedule.lean ====
section
/-! DEFINITION. Which agent moves next, and where the instruction it runs comes from (spec/00_scope.md R6, R14; spec/30_encoding.md R80;
spec/42_loop_controller.md R140). The KWE fetches from no memory (R73): an instruction is a CMD word the Host writes, the message in
the AES request register, or the code of the controller's state. -/

namespace Sys2Proof.Machine

/-- The next scheduling choice and the state without it: the agenda's first, or a free one where the agenda is empty. -/
def takeEvent (s : State) : Event × State :=
  match s.agenda with
  | e :: es => (e, { s with agenda := es })
  | [] => (Config.freeEvent s.clock, { s with clock := s.clock + 1 })

/-- The bytes of the message in the request register (R89, R90; the payload's layout is log entry 9). -/
def reqBytes : AesReq → List Byte
  | .setKey klen key => 0x00#8 :: klen.setWidth 8 :: key.toList
  | .encrypt blk => 0x01#8 :: blk.toList

/-- The instruction an event runs, decoded from its bytes: none for an event that is no instruction. -/
def instrOf (p : Params) (e : Event) (s : State) : Option Instr :=
  match e with
  | .engine => decodedInstr (decode .fsmState [s.st.code.setWidth 8])
  | .aes =>
    match s.aesReq with
    | none => none
    | some req => decodedInstr (decode .aesReq (reqBytes req))
  | .hostWrite a width v =>
    match access p a width with
    | some .cmd => decodedInstr (decode .cmd (wordBytes v))
    | _ => none
  | .arbiter => none
  | .hostRead _ _ => none
  | .reset => none

/-- What an event that is no instruction does: the Arbiter's grant, a register access, a reset, or an agent that is held
because it has nothing to do. -/
def plainStep (p : Params) (e : Event) (s : State) : State :=
  match e with
  | .engine => s
  | .aes => s
  | .arbiter => arbiterStep s
  | .hostRead a width => hostRead p a width s
  | .hostWrite a width v => hostWrite p a width v s
  | .reset => resetStep s

/-- The state with an instruction placed where the next step fetches it, and its agent next on the agenda: a command as a
CMD write (R111), an AES request in the request register (R36), a controller state as `st` (R140). How a program comes to run from reset is log entry 2. -/
def place (s : State) (i : Instr) : State :=
  match i with
  | .nop => { s with agenda := .hostWrite (.reg 0x000) 4 0x00000000#32 :: s.agenda }
  | .wrap => { s with agenda := .hostWrite (.reg 0x000) 4 0x00000001#32 :: s.agenda }
  | .illegalCmd w => { s with agenda := .hostWrite (.reg 0x000) 4 w :: s.agenda }
  | .aesSetkey klen key => { s with aesReq := some (.setKey klen key), agenda := .aes :: s.agenda }
  | .aesEncrypt blk => { s with aesReq := some (.encrypt blk), agenda := .aes :: s.agenda }
  | .fsmIdle => { s with st := .idle, agenda := .engine :: s.agenda }
  | .fsmAcq => { s with st := .acq, agenda := .engine :: s.agenda }
  | .fsmSetkey => { s with st := .setkey, agenda := .engine :: s.agenda }
  | .fsmInit => { s with st := .init, agenda := .engine :: s.agenda }
  | .fsmForm => { s with st := .form, agenda := .engine :: s.agenda }
  | .fsmEncwait => { s with st := .encwait, agenda := .engine :: s.agenda }
  | .fsmUpdate => { s with st := .update, agenda := .engine :: s.agenda }
  | .fsmRel => { s with st := .rel, agenda := .engine :: s.agenda }

end Sys2Proof.Machine
end

