-- ==== Sys2Proof/Machine/Step.lean ====
section
/-! DEFINITION. One step of the machine: the next scheduling choice, carried out (spec/00_scope.md R14). -/

namespace Sys2Proof.Machine

/-- One atomic step (R14): the agent that is next runs the instruction it finds, or the event takes its plain effect. -/
def step (s : State) : Host.Outcome State Fault Refusal :=
  match instrOf Config.params (takeEvent s).1 (takeEvent s).2 with
  | some i => exec i (takeEvent s).2
  | none => .next (plainStep Config.params (takeEvent s).1 (takeEvent s).2)

/-- The state with an instruction of the opcode table stored where `step` fetches its next instruction. -/
def State.withFetchWord (s : State) (nbits w : Nat) : State :=
  match decodeTableWord nbits w with
  | some i => place s i
  | none => s

end Sys2Proof.Machine
end

