-- ==== Sys2Proof/Safety.lean ====
section
/-! DEFINITION. What claims are stated in: which event is a command and what becomes of it, the controller's invariants (spec/42_loop_controller.md R160 and the rules it rests on), the source's
algorithm as a plain function (spec/44_integrity_and_buffer.md R201), the buffer invariant (R197 to R200) and the step count (R157). -/

namespace Sys2Proof.Machine

/-- The state with one more scheduling choice in front of its agenda, so that the next step carries it out. -/
def State.sched (s : State) (e : Event) : State := { s with agenda := e :: s.agenda }

/-- The word of a command: the data of an access that writes CMD (R111), nothing for any other event. -/
def commandWord (p : Params) : Event → Option Word
  | .hostWrite a width v => if access p a width = some .cmd then some v else none
  | .engine | .aes | .arbiter | .hostRead _ _ | .reset => none

/-- The event is a WRAP command written while idle, and it was accepted (R124). -/
def wrapAcceptedBy (p : Params) (e : Event) (s t : State) : Prop :=
  s.st = .idle ∧ commandWord p e = some 0x00000001 ∧ t.st = .acq

/-- The event is a command written while idle that was turned down with the error `code`: a WRAP whose N (R212) or KEKLEN
(R213) is illegal, or an illegal command (R214). -/
def commandRejectedBy (p : Params) (e : Event) (s : State) (code : ErrCode) : Prop :=
  s.st = .idle ∧ ∃ v, commandWord p e = some v ∧
    ((v = 0x00000001 ∧ (s.n.toNat < p.pMinN ∨ p.nMax < s.n.toNat) ∧ code = .badN) ∨
     (v = 0x00000001 ∧ p.pMinN ≤ s.n.toNat ∧ s.n.toNat ≤ p.nMax ∧ 32 < s.kekLen.toNat ∧ code = .badKeklen) ∨
     (v ≠ 0x00000000 ∧ v ≠ 0x00000001 ∧ code = .illegalCmd))

/-- The event is the Engine's step in REL, reporting the error that PEND holds (R152). -/
def errorReportedBy (e : Event) (s : State) (code : ErrCode) : Prop :=
  e = .engine ∧ s.st = .rel ∧ s.pend ≠ .none ∧ code = s.pend

/-- `st ∈ {FORM, ENCWAIT, UPDATE}`. -/
def FsmState.inLoop : FsmState → Bool
  | .form | .encwait | .update => true
  | .idle | .acq | .setkey | .init | .rel => false

/-- `st ∈ {INIT, FORM, ENCWAIT, UPDATE}`: the key setup is over and was accepted. -/
def FsmState.keyed : FsmState → Bool
  | .init | .form | .encwait | .update => true
  | .idle | .acq | .setkey | .rel => false

/-- The KEK the operation uses: its length and its first KEKLEN bytes (R93). -/
def State.kekOperand (s : State) : BitVec 6 × List Byte :=
  (s.kekLen, keyBytes s.kekLen (keyField s.kek s.kekLen))

/-- The controller's invariants. -/
structure CtrlInv (p : Params) (s : State) : Prop where
  /-- BUF is in canonical form. -/
  bufWf : Memory.wf s.buf = true
  /-- No byte outside BUF is ever written (R60). -/
  bufExtent : ∀ a, (Memory.read s.buf a).isSome = true → a < p.bufBytes
  /-- A running operation passed the checks of its WRAP (R124, R160.1). -/
  busyInputs : s.st ≠ .idle → p.pMinN ≤ s.n.toNat ∧ s.n.toNat ≤ p.nMax ∧ s.kekLen.toNat ≤ 32
  /-- The flags of the last operation are cleared while one runs (R124). -/
  busyFlags : s.st ≠ .idle → s.done = false ∧ s.err = false
  /-- The loop indices stay in range (R40, R160.1). -/
  loopIndices : s.st.inLoop = true → s.j.toNat ≤ 5 ∧ 1 ≤ s.i.toNat ∧ s.i.toNat ≤ s.n.toNat
  /-- At most one request or response is outstanding (R171). -/
  portOne : s.aesReq = none ∨ s.aesResp = none
  /-- The port is in use only in SETKEY and ENCWAIT (R160.2). -/
  portStates : s.portEmpty = false → s.st = .setkey ∨ s.st = .encwait
  /-- In SETKEY the outstanding message is this operation's key setup (R172, R175). -/
  setkeyPort : s.st = .setkey →
    s.aesReq = some (setKeyReq s) ∨
      ∃ r, s.aesResp = some r ∧ r.rop = .setKey ∧ (r.ok = true → s.aesKey = some s.kekOperand)
  /-- In ENCWAIT the outstanding message is the encryption of B or its answer (R173, R175). -/
  encwaitPort : s.st = .encwait →
    s.aesReq = some (.encrypt s.b) ∨ ∃ r, s.aesResp = some r ∧ r.rop = .encrypt
  /-- Once the key setup was accepted, the installed key is this operation's (R72). -/
  keyInstalled : s.st.keyed = true → s.aesKey = some s.kekOperand
  /-- The resource is held only under the grant (R160.3). -/
  heldGranted : s.held = true → s.gnt = true
  /-- In IDLE nothing is granted and the port is empty (R160.4). -/
  idleReleased : s.st = .idle → s.gnt = false ∧ s.portEmpty = true
  /-- DONE and ERR never hold together (R28, R160.6). -/
  doneNotErr : s.done = true → s.err = false
  /-- ERRCODE names an error exactly when ERR is set (R29). -/
  errCoded : s.err = true ↔ s.errCode ≠ .none
  /-- PEND holds nothing or a failed key setup, and the latter only once the operation is over (R32, R145). -/
  pendCode : s.pend = .none ∨ (s.pend = .keySetupFail ∧ (s.st = .rel ∨ s.st = .idle))
  /-- Slot 0 is written once INIT has run (R147). -/
  slotAWritten : s.st.inLoop = true → Memory.written s.buf 0 8 = true
  /-- A slot of the operation is written once its first iteration has formed its block (R147). -/
  slotsWritten : s.st.inLoop = true → ∀ k, 1 ≤ k → k ≤ s.n.toNat →
    (s.j ≠ 0 ∨ k < s.i.toNat ∨ (k = s.i.toNat ∧ s.st ≠ .form)) → Memory.written s.buf (8 * k) 8 = true
  /-- AES_NOKEY and AES_PROTOCOL are never recorded (R174, R175, R220). -/
  noAesFault : s.faults.aesNoKey = false ∧ s.faults.aesProtocol = false

/-- An installed key is one that `keyOk` accepted (R37). -/
def State.keyAccepted (p : Params) (s : State) : Prop := ∀ kl k, s.aesKey = some (kl, k) → p.keyOk kl k = true

/-! ## The source's algorithm (R142, R201) -/

/-- One iteration: the block `A ‖ R[i]` encrypted, A its first half with the 64-bit `t` folded in, R[i] its second half. -/
def refIteration (enc : Block → Block) (t : Nat) (a r : Slot) : Slot × Slot :=
  (be64inv (be64 (hiSlot (enc (joinSlots a r))) ^^^ BitVec.ofNat 64 t), loSlot (enc (joinSlots a r)))

/-- A and R after `c` iterations, in the order of R153: iteration number `c` (from 0) has `j = c / n`, `i = c mod n + 1` and
`t = n*j + i`. -/
def refWrap (enc : Block → Block) (n : Nat) (plain : Nat → Slot) : Nat → Slot × (Nat → Slot)
  | 0 => (aInit, plain)
  | c + 1 =>
    let x := refWrap enc n plain c
    let i := c % n + 1
    let y := refIteration enc (n * (c / n) + i) x.1 (x.2 i)
    (y.1, fun k => if k = i then y.2 else x.2 k)

/-- The buffer holds A in slot 0 and R[1..n] in slots 1 to n (R60, R197). -/
def bufHolds (m : Memory) (n : Nat) (x : Slot × (Nat → Slot)) : Prop :=
  Memory.slot m 0 = some x.1 ∧ ∀ k, 1 ≤ k → k ≤ n → Memory.slot m k = some (x.2 k)

/-- The cipher under the operation's KEK. -/
def State.enc (p : Params) (s : State) : Block → Block := p.aesEnc s.kekOperand.1 s.kekOperand.2

/-- How many iterations are complete: `n*j + (i - 1)` (R153). -/
def State.iterations (s : State) : Nat := s.n.toNat * s.j.toNat + (s.i.toNat - 1)

/-- A and R as the source's algorithm has them after the iterations completed so far. -/
def State.ref (p : Params) (plain : Nat → Slot) (s : State) : Slot × (Nat → Slot) :=
  refWrap (s.enc p) s.n.toNat plain s.iterations

/-- A running operation whose WRAP found the buffer `buf0`, with the plaintext `plain` in slots 1 to N, all written: what the
buffer, B and the answer on the port hold in each controller state (R197, R198, R200). -/
structure RunInv (p : Params) (buf0 : Memory) (plain : Nat → Slot) (s : State) : Prop where
  busy : s.st ≠ .idle
  loaded : ∀ k, 1 ≤ k → k ≤ s.n.toNat → Memory.slot buf0 k = some (plain k)
  noFault : s.faults.isEmpty = true
  outside : ∀ a, 8 * (s.n.toNat + 1) ≤ a → Memory.read s.buf a = Memory.read buf0 a
  untouched : s.st = .acq ∨ s.st = .setkey ∨ s.st = .init → s.buf = buf0
  inLoop : s.st.inLoop = true → bufHolds s.buf s.n.toNat (s.ref p plain)
  formed : s.st = .encwait →
    s.b = joinSlots (s.ref p plain).1 ((s.ref p plain).2 s.i.toNat) ∧
      ∀ r, s.aesResp = some r → r.blk = s.enc p s.b
  answered : s.st = .update →
    s.b = s.enc p (joinSlots (s.ref p plain).1 ((s.ref p plain).2 s.i.toNat))
  finished : s.st = .rel → s.pend = .none →
    bufHolds s.buf s.n.toNat (refWrap (s.enc p) s.n.toNat plain (6 * s.n.toNat))
  failed : s.st = .rel → s.pend ≠ .none → s.buf = buf0

/-! ## How many Engine steps are left (R157) -/

/-- Engine steps from this state to IDLE if the key is accepted: `18n + 4` at ACQ (R157). -/
def State.engineStepsLeft (s : State) : Nat :=
  match s.st with
  | .idle => 0
  | .acq => 18 * s.n.toNat + 4
  | .setkey => 18 * s.n.toNat + 3
  | .init => 18 * s.n.toNat + 2
  | .form => 3 * (6 * s.n.toNat - s.iterations) + 1
  | .encwait => 3 * (6 * s.n.toNat - s.iterations)
  | .update => 3 * (6 * s.n.toNat - s.iterations) - 1
  | .rel => 1

end Sys2Proof.Machine
end

