-- ==== Sys2Proof/Certificates/Slice0/Obligations.lean ====
section
/-! DEFINITION. The statements about the model that the provers settle. `s.sched e` is `s` with the scheduling choice `e` next, so
`step (s.sched e)` is what `e` does at `s`. -/

open Sys2Proof Sys2Proof.Machine

/-! ## Encodings -/

/-- Every well-formed instruction is read back from its bytes, whatever bytes follow. -/
def Obligations.DecodeEncodeAgree : Prop :=
  ∀ i : Instr, i.wellFormed = true → ∀ rest : List Byte, decode i.format (encode i ++ rest) = .ok (i, rest)

/-- The other direction: bytes that decode are the encoding of what they decode to, and a CMD word always decodes. For AES
requests and state codes the bytes are laid out as log entry 9 has them, the model's choice. -/
def Obligations.EveryEncodingHasOneMeaning : Prop :=
  (∀ (f : Format) (bs rest : List Byte) (i : Instr),
    decode f bs = .ok (i, rest) → i.format = f ∧ bs = encode i ++ rest) ∧
  ∀ (v : Word) (rest : List Byte), decode .cmd (wordBytes v ++ rest) = .ok (decodeCmd v, rest)

/-- A few words of each format: the CMD words and codes as the spec's tables and examples write them, the key setup of S-K1
(spec/95_test_vectors.md); the bytes of messages and state codes are laid out as log entry 9 has them. -/
def Obligations.WordsDecodeAsTheTablesSay : Prop :=
  decode .cmd [0x00, 0x00, 0x00, 0x00] = .ok (.nop, []) ∧
  decode .cmd [0x01, 0x00, 0x00, 0x00] = .ok (.wrap, []) ∧
  decode .cmd [0x11, 0x00, 0x00, 0x00] = .ok (.illegalCmd 0x00000011, []) ∧
  decode .cmd [0x01, 0x00, 0x00, 0x80] = .ok (.illegalCmd 0x80000001, []) ∧
  decode .aesReq ([0x00, 0x10, 0x00, 0x01, 0x02, 0x03, 0x04, 0x05, 0x06, 0x07, 0x08, 0x09, 0x0A, 0x0B, 0x0C, 0x0D, 0x0E, 0x0F] ++
      List.replicate 16 0x00) = .ok (.aesSetkey 16 (vec 32 fun m => if m < 16 then BitVec.ofNat 8 m else 0x00), []) ∧
  decode .aesReq (0x01 :: List.replicate 16 0xA6) = .ok (.aesEncrypt (vec 16 fun _ => 0xA6), []) ∧
  decode .fsmState [0x04] = .ok (.fsmForm, [])

/-- A CMD word is read whole: 0 is NOP, 1 is WRAP, every other word is an illegal command. -/
def Obligations.CmdWordReadWhole : Prop :=
  ∀ v : Word,
    (v = 0x00000000 → decodeCmd v = .nop) ∧
    (v = 0x00000001 → decodeCmd v = .wrap) ∧
    (v ≠ 0x00000000 → v ≠ 0x00000001 → decodeCmd v = .illegalCmd v)

/-- Reserved state codes and AES request headers are rejected; so is a state byte above 0x0F, which is no code at all but bytes
outside the layout of log entry 9. -/
def Obligations.ReservedCodesRejected : Prop :=
  (∀ (c : Byte) (bs : List Byte), 8 ≤ c.toNat → ∃ e, decode .fsmState (c :: bs) = .error e) ∧
  (∀ (h : Byte) (bs : List Byte), 2 ≤ h.toNat → ∃ e, decode .aesReq (h :: bs) = .error e)

/-! ## A step runs the decoded instruction -/

/-- A step runs the instruction that the next scheduling choice finds: the decoded CMD word of a CMD write, the decoded code
of the controller's state, the decoded message of the request register (laid out as log entry 9 has it); with the agenda empty
the choice is free (log entry 1). -/
def Obligations.StepRunsTheDecodedInstruction : Prop :=
  ∀ s : State,
    (∀ v i, decode .cmd (wordBytes v) = .ok (i, []) →
      step (s.sched (.hostWrite (.reg 0x000) 4 v)) = exec i s) ∧
    (∀ i, decode .fsmState [s.st.code.setWidth 8] = .ok (i, []) → step (s.sched .engine) = exec i s) ∧
    (∀ q i, s.aesReq = some q → decode .aesReq (reqBytes q) = .ok (i, []) → step (s.sched .aes) = exec i s) ∧
    (s.agenda = [] →
      step s = step ({ s with clock := s.clock + 1 }.sched (Config.freeEvent s.clock)))

/-- Each controller state enables its own step, and each request in the register is the instruction of its header. With no
request there the AES agent is held, its step answering the same state (log entry 3). -/
def Obligations.AgentsFindTheirInstruction : Prop :=
  ∀ s : State,
    step (s.sched .engine) =
      (match s.st with
        | .idle => exec .fsmIdle s
        | .acq => exec .fsmAcq s
        | .setkey => exec .fsmSetkey s
        | .init => exec .fsmInit s
        | .form => exec .fsmForm s
        | .encwait => exec .fsmEncwait s
        | .update => exec .fsmUpdate s
        | .rel => exec .fsmRel s) ∧
    step (s.sched .aes) =
      (match s.aesReq with
        | none => .next s
        | some (.setKey kl key) => exec (.aesSetkey kl key) s
        | some (.encrypt blk) => exec (.aesEncrypt blk) s)

/-! ## Reset -/

/-- The state at the start of a run, element by element. -/
def Obligations.ResetValues : Prop :=
  State.reset.n = 0x00000000 ∧ State.reset.kekLen = 0 ∧ (∀ k : Fin 8, State.reset.kek[k] = 0x00000000) ∧
  State.reset.st = .idle ∧ State.reset.done = false ∧ State.reset.err = false ∧
  State.reset.errCode = .none ∧ State.reset.pend = .none ∧ State.reset.j = 0 ∧ State.reset.i = 0 ∧
  (∀ k : Fin 16, State.reset.b[k] = 0x00) ∧ (∀ a, Memory.read State.reset.buf a = none) ∧
  State.reset.aesReq = none ∧ State.reset.aesResp = none ∧ State.reset.aesKey = none ∧ State.reset.gnt = false ∧
  State.reset.faults.isEmpty = true ∧ State.reset.refused = false

/-- A reset event at any state gives every element its reset value, makes STATUS read 0, and leaves `faults` and `refused`. -/
def Obligations.ResetEventFromAnyState : Prop :=
  ∀ s : State, ∃ t, step (s.sched .reset) = .next t ∧
    t.n = 0x00000000 ∧ t.kekLen = 0 ∧ (∀ k : Fin 8, t.kek[k] = 0x00000000) ∧ t.st = .idle ∧
    t.done = false ∧ t.err = false ∧ t.errCode = .none ∧ t.pend = .none ∧ t.j = 0 ∧ t.i = 0 ∧
    (∀ k : Fin 16, t.b[k] = 0x00) ∧ (∀ a, Memory.read t.buf a = none) ∧
    t.aesReq = none ∧ t.aesResp = none ∧ t.aesKey = none ∧ t.gnt = false ∧
    t.faults = s.faults ∧ t.refused = s.refused ∧ t.statusWord = 0x00000000

/-- The invariants hold right after reset. -/
def Obligations.ResetMeetsTheInvariants : Prop :=
  CtrlInv Config.params State.reset ∧ State.reset.keyAccepted Config.params

/-! ## The Host's register accesses -/

/-- The fields of the STATUS word, with the code of each error and of each controller state. -/
def Obligations.StatusWordFields : Prop :=
  ∀ s : State,
    s.statusWord.getLsbD 0 = decide (s.st ≠ .idle) ∧ s.statusWord.getLsbD 1 = s.done ∧
    s.statusWord.getLsbD 2 = s.err ∧ s.statusWord.getLsbD 3 = false ∧
    s.statusWord.extractLsb' 4 4 =
      (match s.errCode with | .none => 0 | .keySetupFail => 1 | .badN => 2 | .badKeklen => 3 | .illegalCmd => 4) ∧
    s.statusWord.extractLsb' 8 4 =
      (match s.st with
        | .idle => 0x0 | .acq => 0x1 | .setkey => 0x2 | .init => 0x3
        | .form => 0x4 | .encwait => 0x5 | .update => 0x6 | .rel => 0x7) ∧
    s.statusWord.extractLsb' 12 20 = 0

/-- What the Host reads at each control register and at a reserved offset; only the returned word changes. -/
def Obligations.HostReadsRegisters : Prop :=
  ∀ s : State,
    step (s.sched (.hostRead (.reg 0x000) 4)) = .next { s with busData := some 0x00000000 } ∧
    step (s.sched (.hostRead (.reg 0x004) 4)) = .next { s with busData := some s.statusWord } ∧
    step (s.sched (.hostRead (.reg 0x008) 4)) = .next { s with busData := some s.n } ∧
    step (s.sched (.hostRead (.reg 0x00C) 4)) = .next { s with busData := some (s.kekLen.setWidth 32) } ∧
    (∀ k : Fin 8, step (s.sched (.hostRead (.reg (0x020 + 4 * k)) 4)) = .next { s with busData := some 0x00000000 }) ∧
    (∀ off, off % 4 = 0 → (0x010 ≤ off ∧ off < 0x020 ∨ 0x040 ≤ off ∧ off < 0x100) →
      step (s.sched (.hostRead (.reg off) 4)) = .next { s with busData := some 0x00000000 })

/-- An idle read of a BUF word whose bytes are written returns them, byte 4w+b in bits [8b+7:8b]. -/
def Obligations.HostReadsWrittenBufWord : Prop :=
  ∀ (s : State) (w : Nat) (v0 v1 v2 v3 : Byte), s.st = .idle → 4 * w < Config.params.bufBytes →
    Memory.read s.buf (4 * w) = some v0 → Memory.read s.buf (4 * w + 1) = some v1 →
    Memory.read s.buf (4 * w + 2) = some v2 → Memory.read s.buf (4 * w + 3) = some v3 →
    ∃ v : Word, step (s.sched (.hostRead (.reg (0x100 + 4 * w)) 4)) = .next { s with busData := some v } ∧
      v.extractLsb' 0 8 = v0 ∧ v.extractLsb' 8 8 = v1 ∧ v.extractLsb' 16 8 = v2 ∧ v.extractLsb' 24 8 = v3

/-- An idle read of a BUF word with unwritten bytes returns a draw for each of them, and uses those draws up. -/
def Obligations.HostReadsDrawsForUnwrittenBytes : Prop :=
  ∀ (s : State) (w : Nat), s.st = .idle → 4 * w < Config.params.bufBytes →
    (∃ b, b < 4 ∧ Memory.read s.buf (4 * w + b) = none) →
    ∃ v : Word, step (s.sched (.hostRead (.reg (0x100 + 4 * w)) 4)) =
        .next { s with busData := some v, draws := s.draws + 4 } ∧
      ∀ b, b < 4 →
        (∀ x, Memory.read s.buf (4 * w + b) = some x → v.extractLsb' (8 * b) 8 = x) ∧
        (Memory.read s.buf (4 * w + b) = none → v.extractLsb' (8 * b) 8 = Config.draw (s.draws + b))

/-- While BUSY a BUF word reads as zero, and every write the window admits, a command among them, changes nothing. -/
def Obligations.BusyEngineOwnsTheInputs : Prop :=
  ∀ (s : State) (off : Nat) (v : Word), s.st ≠ .idle → off % 4 = 0 → off < Config.params.windowBytes →
    (0x100 ≤ off → step (s.sched (.hostRead (.reg off) 4)) = .next { s with busData := some 0x00000000 }) ∧
    step (s.sched (.hostWrite (.reg off) 4 v)) = .next s

/-- Idle writes of N, KEKLEN and KEKk store; writes of STATUS and of reserved offsets change nothing. -/
def Obligations.HostWritesRegisters : Prop :=
  ∀ (s : State) (v : Word), s.st = .idle →
    step (s.sched (.hostWrite (.reg 0x008) 4 v)) = .next { s with n := v } ∧
    step (s.sched (.hostWrite (.reg 0x00C) 4 v)) = .next { s with kekLen := v.extractLsb' 0 6 } ∧
    (∀ k : Fin 8, step (s.sched (.hostWrite (.reg (0x020 + 4 * k)) 4 v)) = .next { s with kek := s.kek.set k v }) ∧
    step (s.sched (.hostWrite (.reg 0x004) 4 v)) = .next s ∧
    (∀ off, off % 4 = 0 → (0x010 ≤ off ∧ off < 0x020 ∨ 0x040 ≤ off ∧ off < 0x100) →
      step (s.sched (.hostWrite (.reg off) 4 v)) = .next s)

/-- An idle write of a BUF word stores bits [8b+7:8b] in byte 4w+b and no other byte. -/
def Obligations.HostWritesBufWord : Prop :=
  ∀ (s : State) (w : Nat) (v : Word), s.st = .idle → 4 * w < Config.params.bufBytes →
    ∃ t, step (s.sched (.hostWrite (.reg (0x100 + 4 * w)) 4 v)) = .next t ∧ t = { s with buf := t.buf } ∧
      (∀ b, b < 4 → Memory.read t.buf (4 * w + b) = some (v.extractLsb' (8 * b) 8)) ∧
      (∀ a, a < 4 * w ∨ 4 * w + 4 ≤ a → Memory.read t.buf a = Memory.read s.buf a)

/-- A BUF word written while idle reads back as it was written. -/
def Obligations.BufWordReadsBack : Prop :=
  ∀ (s t : State) (w : Nat) (v : Word), s.st = .idle → 4 * w < Config.params.bufBytes →
    step (s.sched (.hostWrite (.reg (0x100 + 4 * w)) 4 v)) = .next t →
    step (t.sched (.hostRead (.reg (0x100 + 4 * w)) 4)) = .next { t with busData := some v }

/-- An access of another width, at a misaligned offset, or outside the window only sets the refusal mark, and a refused read
returns no value. -/
def Obligations.UndefinedAccessesRefused : Prop :=
  ∀ (s : State) (off width : Nat) (v : Word),
    (width ≠ 4 ∨ off % 4 ≠ 0 ∨ Config.params.windowBytes ≤ off) →
    step (s.sched (.hostWrite (.reg off) width v)) = .next { s with refused := true } ∧
    step (s.sched (.hostRead (.reg off) width)) = .next { s with refused := true, busData := none }

/-- A bus address at or above BASE is the offset it has from BASE; an address below BASE is refused. -/
def Obligations.BusAddressesAreOffsetsFromBase : Prop :=
  ∀ (s : State) (a width : Nat) (v : Word),
    step (s.sched (.hostWrite (.bus a) width v)) =
      (if Config.params.base ≤ a then step (s.sched (.hostWrite (.reg (a - Config.params.base)) width v))
        else .next { s with refused := true }) ∧
    step (s.sched (.hostRead (.bus a) width)) =
      (if Config.params.base ≤ a then step (s.sched (.hostRead (.reg (a - Config.params.base)) width))
        else .next { s with refused := true, busData := none })

/-- A Host read changes nothing of the KWE. That a refused read answers a next state too is log entry 4. -/
def Obligations.HostReadsHaveNoSideEffects : Prop :=
  ∀ (s : State) (a : BusAddr) (width : Nat), ∃ t, step (s.sched (.hostRead a width)) = .next t ∧
    t = { s with busData := t.busData, draws := t.draws, refused := t.refused } ∧
    (t.busData ≠ none → t.refused = s.refused)

/-- No Host read tells two KEKs apart: from states that differ in the KEK registers alone, a read leads to states that differ
in them alone. -/
def Obligations.HostReadsDoNotRevealTheKek : Prop :=
  ∀ (s t : State) (kek' : Vector Word 8) (a : BusAddr) (width : Nat),
    step (s.sched (.hostRead a width)) = .next t →
    step ({ s with kek := kek' }.sched (.hostRead a width)) = .next { t with kek := kek' }

/-! ## Commands -/

/-- NOP changes nothing, idle or BUSY, and the controller's IDLE enables no step: it answers the same state (log entry 3). -/
def Obligations.NopAndIdleChangeNothing : Prop := ∀ s : State, exec .nop s = .next s ∧ exec .fsmIdle s = .next s

/-- WRAP while idle: with a legal N and KEKLEN it clears the flags and starts the operation; with an illegal N, 0 among them,
it is rejected with BAD_N, whatever KEKLEN holds; with a legal N and KEKLEN above 32, with BAD_KEKLEN. -/
def Obligations.WrapChecksAndStarts : Prop :=
  ∀ s : State, s.st = .idle →
    (Config.params.pMinN ≤ s.n.toNat → s.n.toNat ≤ Config.params.nMax → s.kekLen.toNat ≤ 32 →
      exec .wrap s = .next { s with done := false, err := false, errCode := .none, pend := .none, st := .acq }) ∧
    (s.n = 0 ∨ s.n.toNat < Config.params.pMinN ∨ Config.params.nMax < s.n.toNat →
      exec .wrap s = .next { s with done := false, err := true, errCode := .badN }) ∧
    (Config.params.pMinN ≤ s.n.toNat → s.n.toNat ≤ Config.params.nMax → 32 < s.kekLen.toNat →
      exec .wrap s = .next { s with done := false, err := true, errCode := .badKeklen })

/-- An illegal command written while idle clears DONE, sets ERR and reports ILLEGAL_CMD, and changes nothing else. -/
def Obligations.IllegalCommandReported : Prop :=
  ∀ (s : State) (v : Word), s.st = .idle → v ≠ 0x00000000 → v ≠ 0x00000001 →
    exec (.illegalCmd v) s = .next { s with done := false, err := true, errCode := .illegalCmd }

/-- A command written while BUSY is dropped, whatever its word. -/
def Obligations.CommandWhileBusyDropped : Prop :=
  ∀ (s : State) (v : Word), s.st ≠ .idle → exec (decodeCmd v) s = .next s

/-- What the commands leave unchanged: everything but the flags, PEND and the controller's state; every byte of BUF. -/
def Obligations.CommandFrame : Prop :=
  ∀ (s t : State) (v : Word), exec (decodeCmd v) s = .next t →
    t = { s with done := t.done, err := t.err, errCode := t.errCode, pend := t.pend, st := t.st } ∧
    ∀ a, Memory.read t.buf a = Memory.read s.buf a

/-! ## The AES port -/

/-- AES_SETKEY: the collaborator decides, installs an accepted key, and answers. For KLEN above 32, which no request has, the
key bytes are the 32 there are (log entry 18). -/
def Obligations.SetKeyAnswered : Prop :=
  ∀ (s : State) (kl : BitVec 6) (key : KeyField), s.faults.isEmpty = true →
    s.aesReq = some (.setKey kl key) → s.aesResp = none →
    exec (.aesSetkey kl key) s =
      .next { s with
        aesReq := none
        aesResp := some ⟨.setKey, Config.params.keyOk kl (key.toList.take kl.toNat), vec 16 fun _ => 0⟩
        aesKey := if Config.params.keyOk kl (key.toList.take kl.toNat) = true
          then some (kl, key.toList.take kl.toNat) else none }

/-- AES_ENCRYPT: with a key installed the answer is the cipher's, with OK set; with none, the model fault AES_NOKEY is
recorded and nothing else changes. -/
def Obligations.EncryptAnswered : Prop :=
  ∀ (s : State) (blk : Block), s.faults.isEmpty = true → s.aesReq = some (.encrypt blk) → s.aesResp = none →
    (∀ kl k, s.aesKey = some (kl, k) →
      exec (.aesEncrypt blk) s =
        .next { s with aesReq := none, aesResp := some ⟨.encrypt, true, Config.params.aesEnc kl k blk⟩ }) ∧
    (s.aesKey = none → exec (.aesEncrypt blk) s = .next { s with faults := { s.faults with aesNoKey := true } })

/-- What the AES agent's steps leave unchanged: everything but the port, the installed key and the recorded faults; every
byte of BUF. -/
def Obligations.AesFrame : Prop :=
  ∀ (s t : State) (kl : BitVec 6) (key : KeyField) (blk : Block),
    (exec (.aesSetkey kl key) s = .next t →
      t = { s with aesReq := t.aesReq, aesResp := t.aesResp, aesKey := t.aesKey }) ∧
    (exec (.aesEncrypt blk) s = .next t →
      t = { s with aesReq := t.aesReq, aesResp := t.aesResp, faults := t.faults }) ∧
    (exec (.aesSetkey kl key) s = .next t ∨ exec (.aesEncrypt blk) s = .next t →
      ∀ a, Memory.read t.buf a = Memory.read s.buf a)

/-- The key-setup request: KEY byte m is byte m of the KEK, lane m mod 4 of KEK(m div 4), for m below KEKLEN, and zero from
there on; so the request is a well-formed instruction for every length up to 32. For KEKLEN above 32, which no operation has, it is
log entry 18. -/
def Obligations.SetKeyRequestCarriesTheKek : Prop :=
  ∀ s : State, ∃ key : KeyField, setKeyReq s = .setKey s.kekLen key ∧
    (∀ m : Fin 32, m.val < s.kekLen.toNat → ∀ (h : m.val / 4 < 8), key[m] = (s.kek[m.val / 4]).extractLsb' (8 * (m.val % 4)) 8) ∧
    (∀ m : Fin 32, s.kekLen.toNat ≤ m.val → key[m] = 0) ∧
    (s.kekLen.toNat ≤ 32 → Instr.wellFormed (.aesSetkey s.kekLen key) = true)

/-! ## The loop controller -/

/-- ACQ takes the grant and issues the key setup (for KEKLEN above 32, which no operation has, the request of log entry 18). -/
def Obligations.AcqIssuesTheKeySetup : Prop :=
  ∀ s : State, s.faults.isEmpty = true → s.st = .acq → s.gnt = true → s.aesReq = none → s.aesResp = none →
    exec .fsmAcq s = .next { s with aesReq := some (setKeyReq s), st := .setkey }

/-- SETKEY consumes the response: accepted it goes on to INIT, rejected it latches KEY_SETUP_FAIL and goes to REL. -/
def Obligations.SetkeyConsumesTheResponse : Prop :=
  ∀ (s : State) (r : AesResp), s.faults.isEmpty = true → s.st = .setkey → s.aesResp = some r → r.rop = .setKey →
    (r.ok = true → exec .fsmSetkey s = .next { s with aesResp := none, st := .init }) ∧
    (r.ok = false → exec .fsmSetkey s = .next { s with aesResp := none, pend := .keySetupFail, st := .rel })

/-- INIT writes A6 to the eight bytes of slot 0, and to no other byte, and starts the indices at (0, 1). -/
def Obligations.InitStartsTheLoop : Prop :=
  ∀ s : State, s.faults.isEmpty = true → s.st = .init →
    ∃ t, exec .fsmInit s = .next t ∧ t = { s with buf := t.buf, j := 0, i := 1, st := .form } ∧
      (∀ a, a < 8 → Memory.read t.buf a = some 0xA6) ∧
      (∀ a, 8 ≤ a → Memory.read t.buf a = Memory.read s.buf a)

/-- FORM forms `A ‖ R[i]` in B and issues its encryption; at a slot R[i] with a byte that nothing wrote since reset it
records UNINIT_BUF and does nothing else. -/
def Obligations.FormIssuesTheEncryption : Prop :=
  ∀ s : State, s.faults.isEmpty = true → s.st = .form → s.aesReq = none → s.aesResp = none →
    s.i.toNat ≤ Config.params.nMax →
    (∀ a r : Slot, Memory.slot s.buf 0 = some a → Memory.slot s.buf s.i.toNat = some r →
      ∃ b : Block, exec .fsmForm s = .next { s with b := b, aesReq := some (.encrypt b), st := .encwait } ∧
        b.toList = a.toList ++ r.toList) ∧
    ((∃ b, b < 8 ∧ Memory.read s.buf (8 * s.i.toNat + b) = none) →
      exec .fsmForm s = .next { s with faults := { s.faults with uninitBuf := true } })

/-- FORM and UPDATE stop at a slot that BUF does not have. -/
def Obligations.StopsOutsideTheBuffer : Prop :=
  ∀ s : State, s.faults.isEmpty = true → Config.params.nMax < s.i.toNat →
    (s.st = .form → s.aesReq = none → s.aesResp = none → exec .fsmForm s = .fault .bufRange) ∧
    (s.st = .update → exec .fsmUpdate s = .fault .bufRange)

/-- ENCWAIT takes the answer's block into B, whatever its OK bit. -/
def Obligations.EncwaitTakesTheBlock : Prop :=
  ∀ (s : State) (r : AesResp), s.faults.isEmpty = true → s.st = .encwait → s.aesResp = some r → r.rop = .encrypt →
    exec .fsmEncwait s = .next { s with aesResp := none, b := r.blk, st := .update }

/-- A response that does not match the request records AES_PROTOCOL and nothing else (log entry 13; the step goes on, log
entry 4). -/
def Obligations.MismatchedResponseRecorded : Prop :=
  ∀ (s : State) (r : AesResp), s.faults.isEmpty = true → s.aesResp = some r →
    (s.st = .setkey → r.rop = .encrypt →
      exec .fsmSetkey s = .next { s with faults := { s.faults with aesProtocol := true } }) ∧
    (s.st = .encwait → r.rop = .setKey →
      exec .fsmEncwait s = .next { s with faults := { s.faults with aesProtocol := true } })

/-- UPDATE writes bytes 0 to 7 of B, with the four bytes of t = n*j + i folded into bytes 4 to 7, to slot 0, and bytes 8 to 15
to slot i, no other byte, and advances the indices. -/
def Obligations.UpdateWritesBackAndAdvances : Prop :=
  ∀ s : State, s.faults.isEmpty = true → s.st = .update → 1 ≤ s.i.toNat → s.i.toNat ≤ Config.params.nMax →
    ∃ t, exec .fsmUpdate s = .next t ∧ t = { s with buf := t.buf, j := t.j, i := t.i, st := t.st } ∧
      (∀ b : Fin 4, Memory.read t.buf b = some s.b[b.val]) ∧
      (∀ b : Fin 4, Memory.read t.buf (4 + b) =
        some (s.b[4 + b.val] ^^^ (s.n * s.j.setWidth 32 + s.i).extractLsb' (8 * (3 - b)) 8)) ∧
      (∀ b : Fin 8, Memory.read t.buf (8 * s.i.toNat + b) = some s.b[8 + b.val]) ∧
      (∀ a, 8 ≤ a → a < 8 * s.i.toNat ∨ 8 * s.i.toNat + 8 ≤ a → Memory.read t.buf a = Memory.read s.buf a) ∧
      (s.i < s.n → t.j = s.j ∧ t.i = s.i + 1 ∧ t.st = .form) ∧
      (¬ s.i < s.n → s.j < 5 → t.j = s.j + 1 ∧ t.i = 1 ∧ t.st = .form) ∧
      (¬ s.i < s.n → ¬ s.j < 5 → t.j = s.j ∧ t.i = s.i ∧ t.st = .rel)

/-- REL releases the resource and reports: DONE, or the error that PEND holds. -/
def Obligations.RelReleasesAndReports : Prop :=
  ∀ s : State, s.faults.isEmpty = true → s.st = .rel →
    (s.pend = .none → exec .fsmRel s = .next { s with st := .idle, gnt := false, done := true }) ∧
    (s.pend ≠ .none →
      exec .fsmRel s = .next { s with st := .idle, gnt := false, err := true, errCode := s.pend })

/-- An agent whose enabling condition does not hold is held, and its step changes nothing: the Engine in every state once a
model fault is recorded, in ACQ without the grant or with the port in use, in SETKEY and ENCWAIT without a response, in FORM
with the port in use; the AES agent where its request is not there, a response waits, or a model fault is recorded. -/
def Obligations.HeldAgentsChangeNothing : Prop :=
  ∀ s : State,
    (s.faults.isEmpty = false → step (s.sched .engine) = .next s) ∧
    (s.st = .acq → s.gnt = false ∨ s.aesReq ≠ none ∨ s.aesResp ≠ none → step (s.sched .engine) = .next s) ∧
    (s.st = .setkey ∨ s.st = .encwait → s.aesResp = none → step (s.sched .engine) = .next s) ∧
    (s.st = .form → s.aesReq ≠ none ∨ s.aesResp ≠ none → step (s.sched .engine) = .next s) ∧
    (∀ kl key, ¬(s.faults.isEmpty = true ∧ s.aesReq = some (.setKey kl key) ∧ s.aesResp = none) →
      exec (.aesSetkey kl key) s = .next s) ∧
    (∀ blk, ¬(s.faults.isEmpty = true ∧ s.aesReq = some (.encrypt blk) ∧ s.aesResp = none) →
      exec (.aesEncrypt blk) s = .next s)

/-- What the steps that store nothing leave unchanged, every byte of BUF among it. -/
def Obligations.NonStoringEngineFrame : Prop :=
  ∀ s t : State,
    (exec .fsmIdle s = .next t → t = s) ∧
    (exec .fsmAcq s = .next t → t = { s with aesReq := t.aesReq, st := t.st }) ∧
    (exec .fsmSetkey s = .next t → t = { s with aesResp := t.aesResp, pend := t.pend, st := t.st, faults := t.faults }) ∧
    (exec .fsmForm s = .next t →
      t = { s with b := t.b, aesReq := t.aesReq, st := t.st, faults := t.faults, draws := t.draws }) ∧
    (exec .fsmEncwait s = .next t → t = { s with aesResp := t.aesResp, b := t.b, st := t.st, faults := t.faults }) ∧
    (exec .fsmRel s = .next t →
      t = { s with st := t.st, gnt := t.gnt, done := t.done, err := t.err, errCode := t.errCode }) ∧
    ((exec .fsmIdle s = .next t ∨ exec .fsmAcq s = .next t ∨ exec .fsmSetkey s = .next t ∨ exec .fsmForm s = .next t ∨
        exec .fsmEncwait s = .next t ∨ exec .fsmRel s = .next t) →
      ∀ a, Memory.read t.buf a = Memory.read s.buf a)

/-- What the two storing steps leave unchanged: INIT stores to slot 0, UPDATE to slot 0 and to the slot that SlotSel selects. -/
def Obligations.StoringEngineFrame : Prop :=
  ∀ s t : State,
    (exec .fsmInit s = .next t →
      t = { s with buf := t.buf, j := t.j, i := t.i, st := t.st } ∧
      ∀ a, 8 ≤ a → Memory.read t.buf a = Memory.read s.buf a) ∧
    (exec .fsmUpdate s = .next t →
      t = { s with buf := t.buf, j := t.j, i := t.i, st := t.st } ∧
      ∀ a, 8 ≤ a → a < slotSel s.i ∨ slotSel s.i + 8 ≤ a → Memory.read t.buf a = Memory.read s.buf a)

/-- The Arbiter raises the grant only on a request, and otherwise does nothing: it is held, its step answering the same state
(log entry 3). -/
def Obligations.ArbiterGrantsARequest : Prop :=
  ∀ s : State,
    (s.st ≠ .idle → s.gnt = false → step (s.sched .arbiter) = .next { s with gnt := true }) ∧
    (s.st = .idle ∨ s.gnt = true → step (s.sched .arbiter) = .next s)

/-! ## The counter -/

/-- Within the range WRAP accepts, the modular counter is the integer n*j + i: it never wraps. -/
def Obligations.CounterNeverWraps : Prop :=
  ∀ (n i : Word) (j : BitVec 3), n.toNat ≤ Config.params.nMax → j.toNat ≤ 5 → 1 ≤ i.toNat → i.toNat ≤ n.toNat →
    (counter n j i).toNat = n.toNat * j.toNat + i.toNat ∧ (counter n j i).toNat ≤ 6 * n.toNat

/-- Byte b of t is non-zero in some iteration exactly when 6n reaches 256^b: from n = 43, 10923 and 2796203 on. -/
def Obligations.HigherCounterBytes : Prop :=
  ∀ n : Word, 1 ≤ n.toNat → n.toNat ≤ 715827882 →
    ((∃ (j : BitVec 3) (i : Word), j.toNat ≤ 5 ∧ 1 ≤ i.toNat ∧ i.toNat ≤ n.toNat ∧
        (counter n j i).extractLsb' 8 8 ≠ 0) ↔ 43 ≤ n.toNat) ∧
    ((∃ (j : BitVec 3) (i : Word), j.toNat ≤ 5 ∧ 1 ≤ i.toNat ∧ i.toNat ≤ n.toNat ∧
        (counter n j i).extractLsb' 16 8 ≠ 0) ↔ 10923 ≤ n.toNat) ∧
    ((∃ (j : BitVec 3) (i : Word), j.toNat ≤ 5 ∧ 1 ≤ i.toNat ∧ i.toNat ≤ n.toNat ∧
        (counter n j i).extractLsb' 24 8 ≠ 0) ↔ 2796203 ≤ n.toNat)

/-- Folding the counter byte by byte is the exclusive-or of the 64-bit number with the zero-extended counter. -/
def Obligations.FoldIsA64BitXor : Prop :=
  ∀ (b : Block) (t : Word), be64 (foldCounter b t) = be64 (hiSlot b) ^^^ t.setWidth 64

/-! ## Rules of the whole machine -/

/-- Recorded model faults and the refusal mark, which are state (log entry 4), are never removed, whatever the step, reset
included. -/
def Obligations.FaultsAndRefusalAreKept : Prop :=
  ∀ s t : State, step s = .next t →
    (∀ r : ModelFault, s.faults.mem r = true → t.faults.mem r = true) ∧ (s.refused = true → t.refused = true)

/-- While BUSY no step but a reset changes an input of the operation: N, KEKLEN and the KEK. -/
def Obligations.InputsFixedWhileBusy : Prop :=
  ∀ (s t : State) (e : Event), s.st ≠ .idle → e ≠ .reset → step (s.sched e) = .next t →
    t.n = s.n ∧ t.kekLen = s.kekLen ∧ t.kek = s.kek

/-- While BUSY only the Engine and a reset change the controller's position, PEND, B, the flags and BUF. -/
def Obligations.OnlyTheEngineMovesABusyController : Prop :=
  ∀ (s t : State) (e : Event), s.st ≠ .idle → e ≠ .engine → e ≠ .reset → step (s.sched e) = .next t →
    t.st = s.st ∧ t.j = s.j ∧ t.i = s.i ∧ t.pend = s.pend ∧ t.b = s.b ∧ t.buf = s.buf ∧
      t.done = s.done ∧ t.err = s.err ∧ t.errCode = s.errCode

/-- `held` rises only from ACQ to SETKEY, and falls only from REL to IDLE or at a reset. -/
def Obligations.HeldRisesAtAcqFallsAtRel : Prop :=
  ∀ (s t : State) (e : Event), step (s.sched e) = .next t →
    (s.held = false → t.held = true → e = .engine ∧ s.st = .acq ∧ t.st = .setkey) ∧
    (s.held = true → t.held = false → e = .reset ∨ (e = .engine ∧ s.st = .rel ∧ t.st = .idle))

/-- When the grant and the flags change: gnt is raised only by the Arbiter on a request and cleared only by REL and by a reset;
DONE is set only by REL with nothing pending and cleared only by a WRAP, an illegal command or a reset; ERR is set, and ERRCODE
takes a new code, only by REL with an error pending or by a rejected command, whose error it is then; ERR is cleared, and
ERRCODE goes back to NONE, only by an accepted WRAP or a reset. -/
def Obligations.GrantAndFlagsChangeOnlyByTheirRules : Prop :=
  ∀ (s t : State) (e : Event), step (s.sched e) = .next t →
    (s.gnt = false → t.gnt = true → e = .arbiter ∧ s.st ≠ .idle) ∧
    (s.gnt = true → t.gnt = false → e = .reset ∨ (e = .engine ∧ s.st = .rel)) ∧
    (s.done = false → t.done = true → e = .engine ∧ s.st = .rel ∧ s.pend = .none) ∧
    (s.done = true → t.done = false →
      e = .reset ∨ wrapAcceptedBy Config.params e s t ∨ ∃ code, commandRejectedBy Config.params e s code) ∧
    (s.err = false → t.err = true →
      errorReportedBy e s t.errCode ∨ commandRejectedBy Config.params e s t.errCode) ∧
    (s.err = true → t.err = false → e = .reset ∨ wrapAcceptedBy Config.params e s t) ∧
    (t.errCode ≠ s.errCode →
      (t.err = true ∧ (errorReportedBy e s t.errCode ∨ commandRejectedBy Config.params e s t.errCode)) ∨
      (t.err = false ∧ t.errCode = .none ∧ (e = .reset ∨ wrapAcceptedBy Config.params e s t)))

/-- From any state, every step keeps BUF in canonical form, and an installed key one that `keyOk` accepted. -/
def Obligations.EveryStepKeepsBufCanonicalAndKeysAccepted : Prop :=
  ∀ s t : State, step s = .next t →
    (Memory.wf s.buf = true → Memory.wf t.buf = true) ∧
    (s.keyAccepted Config.params → t.keyAccepted Config.params)

/-! ## Headline results -/

/-- Every step keeps the controller's invariants. -/
def Obligations.EveryStepKeepsTheControllerInvariants : Prop :=
  ∀ s t : State, CtrlInv Config.params s → step s = .next t → CtrlInv Config.params t

/-- From a state that meets the controller's invariants the machine never stops: held agents answer the same state (log entry 3),
model faults and refused accesses are next states (log entry 4), and the one stop there is, bufRange (log entry 11), is not
reached. -/
def Obligations.NoStopUnderTheControllerInvariants : Prop :=
  ∀ s : State, CtrlInv Config.params s → ∃ t, step s = .next t

/-- While an operation runs and no model fault is recorded, some agent has a step that changes the state: the only waits are
for the Arbiter and for the AES agent. -/
def Obligations.BusyMachineIsNeverStuck : Prop :=
  ∀ s : State, CtrlInv Config.params s → s.st ≠ .idle → s.faults.isEmpty = true →
    ∃ (e : Event) (t : State), (e = .engine ∨ (e = .aes ∧ (s.st = .setkey ∨ s.st = .encwait)) ∨ (e = .arbiter ∧ s.st = .acq)) ∧
      step (s.sched e) = .next t ∧ t ≠ s

/-- UNINIT_BUF is recorded only by FORM, in the first round, over a block R[i] with a byte that nothing wrote. -/
def Obligations.UninitBufOnlyInTheFirstRound : Prop :=
  ∀ (s t : State) (e : Event), CtrlInv Config.params s → step (s.sched e) = .next t →
    s.faults.uninitBuf = false → t.faults.uninitBuf = true →
    e = .engine ∧ s.st = .form ∧ s.j = 0 ∧ ∃ b, b < 8 ∧ Memory.read s.buf (8 * s.i.toNat + b) = none

/-- The buffer invariant starts to hold when a WRAP over a fully loaded buffer is accepted. -/
def Obligations.AcceptedWrapStartsTheBufferInvariant : Prop :=
  ∀ (s t : State) (plain : Nat → Slot), CtrlInv Config.params s → s.st = .idle → s.faults.isEmpty = true →
    (∀ k, 1 ≤ k → k ≤ s.n.toNat → Memory.slot s.buf k = some (plain k)) →
    exec .wrap s = .next t → t.st = .acq → RunInv Config.params s.buf plain t

/-- Every step keeps the buffer invariant until the operation is over; then, if DONE is set, slots 0 to N hold what the
source's algorithm makes of the plaintext after its 6N iterations, and the rest of BUF is as the WRAP found it; and if
ERR is set, all of BUF is. -/
def Obligations.EveryStepKeepsTheBufferInvariant : Prop :=
  ∀ (s t : State) (buf0 : Memory) (plain : Nat → Slot), CtrlInv Config.params s →
    RunInv Config.params buf0 plain s → step s = .next t →
    (t.st ≠ .idle → RunInv Config.params buf0 plain t) ∧
    (t.st = .idle → t.done = true →
      bufHolds t.buf s.n.toNat (refWrap (s.enc Config.params) s.n.toNat plain (6 * s.n.toNat)) ∧
      ∀ a, 8 * (s.n.toNat + 1) ≤ a → Memory.read t.buf a = Memory.read buf0 a) ∧
    (t.st = .idle → t.err = true → t.buf = buf0)

/-- An Engine step that is not held brings the operation one step nearer to IDLE, of the 18N + 4 that ACQ has before it; where
it rejects the key, only the step of REL is left, so that a failed operation takes 3 in all; where it records a model fault,
the count stays. -/
def Obligations.EachEngineStepCountsDown : Prop :=
  ∀ s t : State, CtrlInv Config.params s → s.st ≠ .idle → step (s.sched .engine) = .next t → t ≠ s →
    (s.st = .acq → s.engineStepsLeft = 18 * s.n.toNat + 4) ∧
    (t.st = .idle → t.engineStepsLeft = 0) ∧
    (t.faults.isEmpty = true → ¬(s.st = .setkey ∧ t.st = .rel) → s.engineStepsLeft = t.engineStepsLeft + 1) ∧
    (t.faults.isEmpty = true → s.st = .setkey → t.st = .rel → t.engineStepsLeft = 1) ∧
    (t.faults.isEmpty = false → t.engineStepsLeft = s.engineStepsLeft)
end

