-- ==== Sys2Proof/Laws/State.lean ====
section
/-! SUPPORT. One lemma per field and named update of the state: what the update makes of the field. -/

namespace Sys2Proof.Machine

/-! ### `State.refuse` -/

@[simp] theorem State.refuse_n (s : State) : (s.refuse).n = s.n := rfl
@[simp] theorem State.refuse_kekLen (s : State) : (s.refuse).kekLen = s.kekLen := rfl
@[simp] theorem State.refuse_kek (s : State) : (s.refuse).kek = s.kek := rfl
@[simp] theorem State.refuse_st (s : State) : (s.refuse).st = s.st := rfl
@[simp] theorem State.refuse_done (s : State) : (s.refuse).done = s.done := rfl
@[simp] theorem State.refuse_err (s : State) : (s.refuse).err = s.err := rfl
@[simp] theorem State.refuse_errCode (s : State) : (s.refuse).errCode = s.errCode := rfl
@[simp] theorem State.refuse_j (s : State) : (s.refuse).j = s.j := rfl
@[simp] theorem State.refuse_i (s : State) : (s.refuse).i = s.i := rfl
@[simp] theorem State.refuse_pend (s : State) : (s.refuse).pend = s.pend := rfl
@[simp] theorem State.refuse_b (s : State) : (s.refuse).b = s.b := rfl
@[simp] theorem State.refuse_buf (s : State) : (s.refuse).buf = s.buf := rfl
@[simp] theorem State.refuse_aesReq (s : State) : (s.refuse).aesReq = s.aesReq := rfl
@[simp] theorem State.refuse_aesResp (s : State) : (s.refuse).aesResp = s.aesResp := rfl
@[simp] theorem State.refuse_aesKey (s : State) : (s.refuse).aesKey = s.aesKey := rfl
@[simp] theorem State.refuse_gnt (s : State) : (s.refuse).gnt = s.gnt := rfl
@[simp] theorem State.refuse_faults (s : State) : (s.refuse).faults = s.faults := rfl
@[simp] theorem State.refuse_refused (s : State) : (s.refuse).refused = true := rfl
@[simp] theorem State.refuse_busData (s : State) : (s.refuse).busData = s.busData := rfl
@[simp] theorem State.refuse_draws (s : State) : (s.refuse).draws = s.draws := rfl
@[simp] theorem State.refuse_agenda (s : State) : (s.refuse).agenda = s.agenda := rfl
@[simp] theorem State.refuse_clock (s : State) : (s.refuse).clock = s.clock := rfl

/-! ### `State.recordFault` -/

@[simp] theorem State.recordFault_n (s : State) (r : ModelFault) : (s.recordFault r).n = s.n := rfl
@[simp] theorem State.recordFault_kekLen (s : State) (r : ModelFault) : (s.recordFault r).kekLen = s.kekLen := rfl
@[simp] theorem State.recordFault_kek (s : State) (r : ModelFault) : (s.recordFault r).kek = s.kek := rfl
@[simp] theorem State.recordFault_st (s : State) (r : ModelFault) : (s.recordFault r).st = s.st := rfl
@[simp] theorem State.recordFault_done (s : State) (r : ModelFault) : (s.recordFault r).done = s.done := rfl
@[simp] theorem State.recordFault_err (s : State) (r : ModelFault) : (s.recordFault r).err = s.err := rfl
@[simp] theorem State.recordFault_errCode (s : State) (r : ModelFault) : (s.recordFault r).errCode = s.errCode := rfl
@[simp] theorem State.recordFault_j (s : State) (r : ModelFault) : (s.recordFault r).j = s.j := rfl
@[simp] theorem State.recordFault_i (s : State) (r : ModelFault) : (s.recordFault r).i = s.i := rfl
@[simp] theorem State.recordFault_pend (s : State) (r : ModelFault) : (s.recordFault r).pend = s.pend := rfl
@[simp] theorem State.recordFault_b (s : State) (r : ModelFault) : (s.recordFault r).b = s.b := rfl
@[simp] theorem State.recordFault_buf (s : State) (r : ModelFault) : (s.recordFault r).buf = s.buf := rfl
@[simp] theorem State.recordFault_aesReq (s : State) (r : ModelFault) : (s.recordFault r).aesReq = s.aesReq := rfl
@[simp] theorem State.recordFault_aesResp (s : State) (r : ModelFault) : (s.recordFault r).aesResp = s.aesResp := rfl
@[simp] theorem State.recordFault_aesKey (s : State) (r : ModelFault) : (s.recordFault r).aesKey = s.aesKey := rfl
@[simp] theorem State.recordFault_gnt (s : State) (r : ModelFault) : (s.recordFault r).gnt = s.gnt := rfl
@[simp] theorem State.recordFault_faults (s : State) (r : ModelFault) : (s.recordFault r).faults = s.faults.insert r := rfl
@[simp] theorem State.recordFault_refused (s : State) (r : ModelFault) : (s.recordFault r).refused = s.refused := rfl
@[simp] theorem State.recordFault_busData (s : State) (r : ModelFault) : (s.recordFault r).busData = s.busData := rfl
@[simp] theorem State.recordFault_draws (s : State) (r : ModelFault) : (s.recordFault r).draws = s.draws := rfl
@[simp] theorem State.recordFault_agenda (s : State) (r : ModelFault) : (s.recordFault r).agenda = s.agenda := rfl
@[simp] theorem State.recordFault_clock (s : State) (r : ModelFault) : (s.recordFault r).clock = s.clock := rfl

/-! ### `State.issue` -/

@[simp] theorem State.issue_n (s : State) (q : AesReq) : (s.issue q).n = s.n := rfl
@[simp] theorem State.issue_kekLen (s : State) (q : AesReq) : (s.issue q).kekLen = s.kekLen := rfl
@[simp] theorem State.issue_kek (s : State) (q : AesReq) : (s.issue q).kek = s.kek := rfl
@[simp] theorem State.issue_st (s : State) (q : AesReq) : (s.issue q).st = s.st := rfl
@[simp] theorem State.issue_done (s : State) (q : AesReq) : (s.issue q).done = s.done := rfl
@[simp] theorem State.issue_err (s : State) (q : AesReq) : (s.issue q).err = s.err := rfl
@[simp] theorem State.issue_errCode (s : State) (q : AesReq) : (s.issue q).errCode = s.errCode := rfl
@[simp] theorem State.issue_j (s : State) (q : AesReq) : (s.issue q).j = s.j := rfl
@[simp] theorem State.issue_i (s : State) (q : AesReq) : (s.issue q).i = s.i := rfl
@[simp] theorem State.issue_pend (s : State) (q : AesReq) : (s.issue q).pend = s.pend := rfl
@[simp] theorem State.issue_b (s : State) (q : AesReq) : (s.issue q).b = s.b := rfl
@[simp] theorem State.issue_buf (s : State) (q : AesReq) : (s.issue q).buf = s.buf := rfl
@[simp] theorem State.issue_aesReq (s : State) (q : AesReq) : (s.issue q).aesReq = some q := rfl
@[simp] theorem State.issue_aesResp (s : State) (q : AesReq) : (s.issue q).aesResp = s.aesResp := rfl
@[simp] theorem State.issue_aesKey (s : State) (q : AesReq) : (s.issue q).aesKey = s.aesKey := rfl
@[simp] theorem State.issue_gnt (s : State) (q : AesReq) : (s.issue q).gnt = s.gnt := rfl
@[simp] theorem State.issue_faults (s : State) (q : AesReq) : (s.issue q).faults = s.faults := rfl
@[simp] theorem State.issue_refused (s : State) (q : AesReq) : (s.issue q).refused = s.refused := rfl
@[simp] theorem State.issue_busData (s : State) (q : AesReq) : (s.issue q).busData = s.busData := rfl
@[simp] theorem State.issue_draws (s : State) (q : AesReq) : (s.issue q).draws = s.draws := rfl
@[simp] theorem State.issue_agenda (s : State) (q : AesReq) : (s.issue q).agenda = s.agenda := rfl
@[simp] theorem State.issue_clock (s : State) (q : AesReq) : (s.issue q).clock = s.clock := rfl

/-! ### `State.takeResp` -/

@[simp] theorem State.takeResp_n (s : State) : (s.takeResp).n = s.n := rfl
@[simp] theorem State.takeResp_kekLen (s : State) : (s.takeResp).kekLen = s.kekLen := rfl
@[simp] theorem State.takeResp_kek (s : State) : (s.takeResp).kek = s.kek := rfl
@[simp] theorem State.takeResp_st (s : State) : (s.takeResp).st = s.st := rfl
@[simp] theorem State.takeResp_done (s : State) : (s.takeResp).done = s.done := rfl
@[simp] theorem State.takeResp_err (s : State) : (s.takeResp).err = s.err := rfl
@[simp] theorem State.takeResp_errCode (s : State) : (s.takeResp).errCode = s.errCode := rfl
@[simp] theorem State.takeResp_j (s : State) : (s.takeResp).j = s.j := rfl
@[simp] theorem State.takeResp_i (s : State) : (s.takeResp).i = s.i := rfl
@[simp] theorem State.takeResp_pend (s : State) : (s.takeResp).pend = s.pend := rfl
@[simp] theorem State.takeResp_b (s : State) : (s.takeResp).b = s.b := rfl
@[simp] theorem State.takeResp_buf (s : State) : (s.takeResp).buf = s.buf := rfl
@[simp] theorem State.takeResp_aesReq (s : State) : (s.takeResp).aesReq = s.aesReq := rfl
@[simp] theorem State.takeResp_aesResp (s : State) : (s.takeResp).aesResp = none := rfl
@[simp] theorem State.takeResp_aesKey (s : State) : (s.takeResp).aesKey = s.aesKey := rfl
@[simp] theorem State.takeResp_gnt (s : State) : (s.takeResp).gnt = s.gnt := rfl
@[simp] theorem State.takeResp_faults (s : State) : (s.takeResp).faults = s.faults := rfl
@[simp] theorem State.takeResp_refused (s : State) : (s.takeResp).refused = s.refused := rfl
@[simp] theorem State.takeResp_busData (s : State) : (s.takeResp).busData = s.busData := rfl
@[simp] theorem State.takeResp_draws (s : State) : (s.takeResp).draws = s.draws := rfl
@[simp] theorem State.takeResp_agenda (s : State) : (s.takeResp).agenda = s.agenda := rfl
@[simp] theorem State.takeResp_clock (s : State) : (s.takeResp).clock = s.clock := rfl

/-! ### `State.respond` -/

@[simp] theorem State.respond_n (s : State) (r : AesResp) : (s.respond r).n = s.n := rfl
@[simp] theorem State.respond_kekLen (s : State) (r : AesResp) : (s.respond r).kekLen = s.kekLen := rfl
@[simp] theorem State.respond_kek (s : State) (r : AesResp) : (s.respond r).kek = s.kek := rfl
@[simp] theorem State.respond_st (s : State) (r : AesResp) : (s.respond r).st = s.st := rfl
@[simp] theorem State.respond_done (s : State) (r : AesResp) : (s.respond r).done = s.done := rfl
@[simp] theorem State.respond_err (s : State) (r : AesResp) : (s.respond r).err = s.err := rfl
@[simp] theorem State.respond_errCode (s : State) (r : AesResp) : (s.respond r).errCode = s.errCode := rfl
@[simp] theorem State.respond_j (s : State) (r : AesResp) : (s.respond r).j = s.j := rfl
@[simp] theorem State.respond_i (s : State) (r : AesResp) : (s.respond r).i = s.i := rfl
@[simp] theorem State.respond_pend (s : State) (r : AesResp) : (s.respond r).pend = s.pend := rfl
@[simp] theorem State.respond_b (s : State) (r : AesResp) : (s.respond r).b = s.b := rfl
@[simp] theorem State.respond_buf (s : State) (r : AesResp) : (s.respond r).buf = s.buf := rfl
@[simp] theorem State.respond_aesReq (s : State) (r : AesResp) : (s.respond r).aesReq = none := rfl
@[simp] theorem State.respond_aesResp (s : State) (r : AesResp) : (s.respond r).aesResp = some r := rfl
@[simp] theorem State.respond_aesKey (s : State) (r : AesResp) : (s.respond r).aesKey = s.aesKey := rfl
@[simp] theorem State.respond_gnt (s : State) (r : AesResp) : (s.respond r).gnt = s.gnt := rfl
@[simp] theorem State.respond_faults (s : State) (r : AesResp) : (s.respond r).faults = s.faults := rfl
@[simp] theorem State.respond_refused (s : State) (r : AesResp) : (s.respond r).refused = s.refused := rfl
@[simp] theorem State.respond_busData (s : State) (r : AesResp) : (s.respond r).busData = s.busData := rfl
@[simp] theorem State.respond_draws (s : State) (r : AesResp) : (s.respond r).draws = s.draws := rfl
@[simp] theorem State.respond_agenda (s : State) (r : AesResp) : (s.respond r).agenda = s.agenda := rfl
@[simp] theorem State.respond_clock (s : State) (r : AesResp) : (s.respond r).clock = s.clock := rfl

/-! ### `State.raiseError` -/

@[simp] theorem State.raiseError_n (s : State) (c : ErrCode) : (s.raiseError c).n = s.n := rfl
@[simp] theorem State.raiseError_kekLen (s : State) (c : ErrCode) : (s.raiseError c).kekLen = s.kekLen := rfl
@[simp] theorem State.raiseError_kek (s : State) (c : ErrCode) : (s.raiseError c).kek = s.kek := rfl
@[simp] theorem State.raiseError_st (s : State) (c : ErrCode) : (s.raiseError c).st = s.st := rfl
@[simp] theorem State.raiseError_done (s : State) (c : ErrCode) : (s.raiseError c).done = s.done := rfl
@[simp] theorem State.raiseError_err (s : State) (c : ErrCode) : (s.raiseError c).err = true := rfl
@[simp] theorem State.raiseError_errCode (s : State) (c : ErrCode) : (s.raiseError c).errCode = c := rfl
@[simp] theorem State.raiseError_j (s : State) (c : ErrCode) : (s.raiseError c).j = s.j := rfl
@[simp] theorem State.raiseError_i (s : State) (c : ErrCode) : (s.raiseError c).i = s.i := rfl
@[simp] theorem State.raiseError_pend (s : State) (c : ErrCode) : (s.raiseError c).pend = s.pend := rfl
@[simp] theorem State.raiseError_b (s : State) (c : ErrCode) : (s.raiseError c).b = s.b := rfl
@[simp] theorem State.raiseError_buf (s : State) (c : ErrCode) : (s.raiseError c).buf = s.buf := rfl
@[simp] theorem State.raiseError_aesReq (s : State) (c : ErrCode) : (s.raiseError c).aesReq = s.aesReq := rfl
@[simp] theorem State.raiseError_aesResp (s : State) (c : ErrCode) : (s.raiseError c).aesResp = s.aesResp := rfl
@[simp] theorem State.raiseError_aesKey (s : State) (c : ErrCode) : (s.raiseError c).aesKey = s.aesKey := rfl
@[simp] theorem State.raiseError_gnt (s : State) (c : ErrCode) : (s.raiseError c).gnt = s.gnt := rfl
@[simp] theorem State.raiseError_faults (s : State) (c : ErrCode) : (s.raiseError c).faults = s.faults := rfl
@[simp] theorem State.raiseError_refused (s : State) (c : ErrCode) : (s.raiseError c).refused = s.refused := rfl
@[simp] theorem State.raiseError_busData (s : State) (c : ErrCode) : (s.raiseError c).busData = s.busData := rfl
@[simp] theorem State.raiseError_draws (s : State) (c : ErrCode) : (s.raiseError c).draws = s.draws := rfl
@[simp] theorem State.raiseError_agenda (s : State) (c : ErrCode) : (s.raiseError c).agenda = s.agenda := rfl
@[simp] theorem State.raiseError_clock (s : State) (c : ErrCode) : (s.raiseError c).clock = s.clock := rfl

/-! ### `State.rejectCommand` -/

@[simp] theorem State.rejectCommand_n (s : State) (c : ErrCode) : (s.rejectCommand c).n = s.n := rfl
@[simp] theorem State.rejectCommand_kekLen (s : State) (c : ErrCode) : (s.rejectCommand c).kekLen = s.kekLen := rfl
@[simp] theorem State.rejectCommand_kek (s : State) (c : ErrCode) : (s.rejectCommand c).kek = s.kek := rfl
@[simp] theorem State.rejectCommand_st (s : State) (c : ErrCode) : (s.rejectCommand c).st = s.st := rfl
@[simp] theorem State.rejectCommand_done (s : State) (c : ErrCode) : (s.rejectCommand c).done = false := rfl
@[simp] theorem State.rejectCommand_err (s : State) (c : ErrCode) : (s.rejectCommand c).err = true := rfl
@[simp] theorem State.rejectCommand_errCode (s : State) (c : ErrCode) : (s.rejectCommand c).errCode = c := rfl
@[simp] theorem State.rejectCommand_j (s : State) (c : ErrCode) : (s.rejectCommand c).j = s.j := rfl
@[simp] theorem State.rejectCommand_i (s : State) (c : ErrCode) : (s.rejectCommand c).i = s.i := rfl
@[simp] theorem State.rejectCommand_pend (s : State) (c : ErrCode) : (s.rejectCommand c).pend = s.pend := rfl
@[simp] theorem State.rejectCommand_b (s : State) (c : ErrCode) : (s.rejectCommand c).b = s.b := rfl
@[simp] theorem State.rejectCommand_buf (s : State) (c : ErrCode) : (s.rejectCommand c).buf = s.buf := rfl
@[simp] theorem State.rejectCommand_aesReq (s : State) (c : ErrCode) : (s.rejectCommand c).aesReq = s.aesReq := rfl
@[simp] theorem State.rejectCommand_aesResp (s : State) (c : ErrCode) : (s.rejectCommand c).aesResp = s.aesResp := rfl
@[simp] theorem State.rejectCommand_aesKey (s : State) (c : ErrCode) : (s.rejectCommand c).aesKey = s.aesKey := rfl
@[simp] theorem State.rejectCommand_gnt (s : State) (c : ErrCode) : (s.rejectCommand c).gnt = s.gnt := rfl
@[simp] theorem State.rejectCommand_faults (s : State) (c : ErrCode) : (s.rejectCommand c).faults = s.faults := rfl
@[simp] theorem State.rejectCommand_refused (s : State) (c : ErrCode) : (s.rejectCommand c).refused = s.refused := rfl
@[simp] theorem State.rejectCommand_busData (s : State) (c : ErrCode) : (s.rejectCommand c).busData = s.busData := rfl
@[simp] theorem State.rejectCommand_draws (s : State) (c : ErrCode) : (s.rejectCommand c).draws = s.draws := rfl
@[simp] theorem State.rejectCommand_agenda (s : State) (c : ErrCode) : (s.rejectCommand c).agenda = s.agenda := rfl
@[simp] theorem State.rejectCommand_clock (s : State) (c : ErrCode) : (s.rejectCommand c).clock = s.clock := rfl

/-! ### `State.clearFlags` -/

@[simp] theorem State.clearFlags_n (s : State) : (s.clearFlags).n = s.n := rfl
@[simp] theorem State.clearFlags_kekLen (s : State) : (s.clearFlags).kekLen = s.kekLen := rfl
@[simp] theorem State.clearFlags_kek (s : State) : (s.clearFlags).kek = s.kek := rfl
@[simp] theorem State.clearFlags_st (s : State) : (s.clearFlags).st = s.st := rfl
@[simp] theorem State.clearFlags_done (s : State) : (s.clearFlags).done = false := rfl
@[simp] theorem State.clearFlags_err (s : State) : (s.clearFlags).err = false := rfl
@[simp] theorem State.clearFlags_errCode (s : State) : (s.clearFlags).errCode = .none := rfl
@[simp] theorem State.clearFlags_j (s : State) : (s.clearFlags).j = s.j := rfl
@[simp] theorem State.clearFlags_i (s : State) : (s.clearFlags).i = s.i := rfl
@[simp] theorem State.clearFlags_pend (s : State) : (s.clearFlags).pend = .none := rfl
@[simp] theorem State.clearFlags_b (s : State) : (s.clearFlags).b = s.b := rfl
@[simp] theorem State.clearFlags_buf (s : State) : (s.clearFlags).buf = s.buf := rfl
@[simp] theorem State.clearFlags_aesReq (s : State) : (s.clearFlags).aesReq = s.aesReq := rfl
@[simp] theorem State.clearFlags_aesResp (s : State) : (s.clearFlags).aesResp = s.aesResp := rfl
@[simp] theorem State.clearFlags_aesKey (s : State) : (s.clearFlags).aesKey = s.aesKey := rfl
@[simp] theorem State.clearFlags_gnt (s : State) : (s.clearFlags).gnt = s.gnt := rfl
@[simp] theorem State.clearFlags_faults (s : State) : (s.clearFlags).faults = s.faults := rfl
@[simp] theorem State.clearFlags_refused (s : State) : (s.clearFlags).refused = s.refused := rfl
@[simp] theorem State.clearFlags_busData (s : State) : (s.clearFlags).busData = s.busData := rfl
@[simp] theorem State.clearFlags_draws (s : State) : (s.clearFlags).draws = s.draws := rfl
@[simp] theorem State.clearFlags_agenda (s : State) : (s.clearFlags).agenda = s.agenda := rfl
@[simp] theorem State.clearFlags_clock (s : State) : (s.clearFlags).clock = s.clock := rfl

/-! ### `State.writeBuf` -/

@[simp] theorem State.writeBuf_n (s : State) (a : Nat) (bs : List Byte) : (s.writeBuf a bs).n = s.n := rfl
@[simp] theorem State.writeBuf_kekLen (s : State) (a : Nat) (bs : List Byte) : (s.writeBuf a bs).kekLen = s.kekLen := rfl
@[simp] theorem State.writeBuf_kek (s : State) (a : Nat) (bs : List Byte) : (s.writeBuf a bs).kek = s.kek := rfl
@[simp] theorem State.writeBuf_st (s : State) (a : Nat) (bs : List Byte) : (s.writeBuf a bs).st = s.st := rfl
@[simp] theorem State.writeBuf_done (s : State) (a : Nat) (bs : List Byte) : (s.writeBuf a bs).done = s.done := rfl
@[simp] theorem State.writeBuf_err (s : State) (a : Nat) (bs : List Byte) : (s.writeBuf a bs).err = s.err := rfl
@[simp] theorem State.writeBuf_errCode (s : State) (a : Nat) (bs : List Byte) : (s.writeBuf a bs).errCode = s.errCode := rfl
@[simp] theorem State.writeBuf_j (s : State) (a : Nat) (bs : List Byte) : (s.writeBuf a bs).j = s.j := rfl
@[simp] theorem State.writeBuf_i (s : State) (a : Nat) (bs : List Byte) : (s.writeBuf a bs).i = s.i := rfl
@[simp] theorem State.writeBuf_pend (s : State) (a : Nat) (bs : List Byte) : (s.writeBuf a bs).pend = s.pend := rfl
@[simp] theorem State.writeBuf_b (s : State) (a : Nat) (bs : List Byte) : (s.writeBuf a bs).b = s.b := rfl
@[simp] theorem State.writeBuf_buf (s : State) (a : Nat) (bs : List Byte) : (s.writeBuf a bs).buf = Memory.writeBytes s.buf a bs := rfl
@[simp] theorem State.writeBuf_aesReq (s : State) (a : Nat) (bs : List Byte) : (s.writeBuf a bs).aesReq = s.aesReq := rfl
@[simp] theorem State.writeBuf_aesResp (s : State) (a : Nat) (bs : List Byte) : (s.writeBuf a bs).aesResp = s.aesResp := rfl
@[simp] theorem State.writeBuf_aesKey (s : State) (a : Nat) (bs : List Byte) : (s.writeBuf a bs).aesKey = s.aesKey := rfl
@[simp] theorem State.writeBuf_gnt (s : State) (a : Nat) (bs : List Byte) : (s.writeBuf a bs).gnt = s.gnt := rfl
@[simp] theorem State.writeBuf_faults (s : State) (a : Nat) (bs : List Byte) : (s.writeBuf a bs).faults = s.faults := rfl
@[simp] theorem State.writeBuf_refused (s : State) (a : Nat) (bs : List Byte) : (s.writeBuf a bs).refused = s.refused := rfl
@[simp] theorem State.writeBuf_busData (s : State) (a : Nat) (bs : List Byte) : (s.writeBuf a bs).busData = s.busData := rfl
@[simp] theorem State.writeBuf_draws (s : State) (a : Nat) (bs : List Byte) : (s.writeBuf a bs).draws = s.draws := rfl
@[simp] theorem State.writeBuf_agenda (s : State) (a : Nat) (bs : List Byte) : (s.writeBuf a bs).agenda = s.agenda := rfl
@[simp] theorem State.writeBuf_clock (s : State) (a : Nat) (bs : List Byte) : (s.writeBuf a bs).clock = s.clock := rfl

/-! ### `initA` -/

@[simp] theorem initA_n (s : State) : (initA s).n = s.n := rfl
@[simp] theorem initA_kekLen (s : State) : (initA s).kekLen = s.kekLen := rfl
@[simp] theorem initA_kek (s : State) : (initA s).kek = s.kek := rfl
@[simp] theorem initA_st (s : State) : (initA s).st = s.st := rfl
@[simp] theorem initA_done (s : State) : (initA s).done = s.done := rfl
@[simp] theorem initA_err (s : State) : (initA s).err = s.err := rfl
@[simp] theorem initA_errCode (s : State) : (initA s).errCode = s.errCode := rfl
@[simp] theorem initA_j (s : State) : (initA s).j = s.j := rfl
@[simp] theorem initA_i (s : State) : (initA s).i = s.i := rfl
@[simp] theorem initA_pend (s : State) : (initA s).pend = s.pend := rfl
@[simp] theorem initA_b (s : State) : (initA s).b = s.b := rfl
@[simp] theorem initA_buf (s : State) : (initA s).buf = Memory.writeBytes s.buf 0 aInit.toList := rfl
@[simp] theorem initA_aesReq (s : State) : (initA s).aesReq = s.aesReq := rfl
@[simp] theorem initA_aesResp (s : State) : (initA s).aesResp = s.aesResp := rfl
@[simp] theorem initA_aesKey (s : State) : (initA s).aesKey = s.aesKey := rfl
@[simp] theorem initA_gnt (s : State) : (initA s).gnt = s.gnt := rfl
@[simp] theorem initA_faults (s : State) : (initA s).faults = s.faults := rfl
@[simp] theorem initA_refused (s : State) : (initA s).refused = s.refused := rfl
@[simp] theorem initA_busData (s : State) : (initA s).busData = s.busData := rfl
@[simp] theorem initA_draws (s : State) : (initA s).draws = s.draws := rfl
@[simp] theorem initA_agenda (s : State) : (initA s).agenda = s.agenda := rfl
@[simp] theorem initA_clock (s : State) : (initA s).clock = s.clock := rfl

/-! ### `formBlock` -/

@[simp] theorem formBlock_n (s : State) (x : Word) : (formBlock x s).n = s.n := by
  simp only [formBlock]
@[simp] theorem formBlock_kekLen (s : State) (x : Word) : (formBlock x s).kekLen = s.kekLen := by
  simp only [formBlock]
@[simp] theorem formBlock_kek (s : State) (x : Word) : (formBlock x s).kek = s.kek := by
  simp only [formBlock]
@[simp] theorem formBlock_st (s : State) (x : Word) : (formBlock x s).st = s.st := by
  simp only [formBlock]
@[simp] theorem formBlock_done (s : State) (x : Word) : (formBlock x s).done = s.done := by
  simp only [formBlock]
@[simp] theorem formBlock_err (s : State) (x : Word) : (formBlock x s).err = s.err := by
  simp only [formBlock]
@[simp] theorem formBlock_errCode (s : State) (x : Word) : (formBlock x s).errCode = s.errCode := by
  simp only [formBlock]
@[simp] theorem formBlock_j (s : State) (x : Word) : (formBlock x s).j = s.j := by
  simp only [formBlock]
@[simp] theorem formBlock_i (s : State) (x : Word) : (formBlock x s).i = s.i := by
  simp only [formBlock]
@[simp] theorem formBlock_pend (s : State) (x : Word) : (formBlock x s).pend = s.pend := by
  simp only [formBlock]
@[simp] theorem formBlock_b (s : State) (x : Word) : (formBlock x s).b = formedBlock x s := by
  simp only [formBlock]
@[simp] theorem formBlock_buf (s : State) (x : Word) : (formBlock x s).buf = s.buf := by
  simp only [formBlock]
@[simp] theorem formBlock_aesReq (s : State) (x : Word) : (formBlock x s).aesReq = s.aesReq := by
  simp only [formBlock]
@[simp] theorem formBlock_aesResp (s : State) (x : Word) : (formBlock x s).aesResp = s.aesResp := by
  simp only [formBlock]
@[simp] theorem formBlock_aesKey (s : State) (x : Word) : (formBlock x s).aesKey = s.aesKey := by
  simp only [formBlock]
@[simp] theorem formBlock_gnt (s : State) (x : Word) : (formBlock x s).gnt = s.gnt := by
  simp only [formBlock]
@[simp] theorem formBlock_faults (s : State) (x : Word) : (formBlock x s).faults = s.faults := by
  simp only [formBlock]
@[simp] theorem formBlock_refused (s : State) (x : Word) : (formBlock x s).refused = s.refused := by
  simp only [formBlock]
@[simp] theorem formBlock_busData (s : State) (x : Word) : (formBlock x s).busData = s.busData := by
  simp only [formBlock]
@[simp] theorem formBlock_draws (s : State) (x : Word) : (formBlock x s).draws = s.draws + s.drawCount 0 8 := by
  simp only [formBlock]
@[simp] theorem formBlock_agenda (s : State) (x : Word) : (formBlock x s).agenda = s.agenda := by
  simp only [formBlock]
@[simp] theorem formBlock_clock (s : State) (x : Word) : (formBlock x s).clock = s.clock := by
  simp only [formBlock]

/-! ### `writeBack` -/

@[simp] theorem writeBack_n (s : State) : (writeBack s).n = s.n := by
  simp only [writeBack, writeBackR, updateA, State.writeBuf]
@[simp] theorem writeBack_kekLen (s : State) : (writeBack s).kekLen = s.kekLen := by
  simp only [writeBack, writeBackR, updateA, State.writeBuf]
@[simp] theorem writeBack_kek (s : State) : (writeBack s).kek = s.kek := by
  simp only [writeBack, writeBackR, updateA, State.writeBuf]
@[simp] theorem writeBack_st (s : State) : (writeBack s).st = s.st := by
  simp only [writeBack, writeBackR, updateA, State.writeBuf]
@[simp] theorem writeBack_done (s : State) : (writeBack s).done = s.done := by
  simp only [writeBack, writeBackR, updateA, State.writeBuf]
@[simp] theorem writeBack_err (s : State) : (writeBack s).err = s.err := by
  simp only [writeBack, writeBackR, updateA, State.writeBuf]
@[simp] theorem writeBack_errCode (s : State) : (writeBack s).errCode = s.errCode := by
  simp only [writeBack, writeBackR, updateA, State.writeBuf]
@[simp] theorem writeBack_j (s : State) : (writeBack s).j = s.j := by
  simp only [writeBack, writeBackR, updateA, State.writeBuf]
@[simp] theorem writeBack_i (s : State) : (writeBack s).i = s.i := by
  simp only [writeBack, writeBackR, updateA, State.writeBuf]
@[simp] theorem writeBack_pend (s : State) : (writeBack s).pend = s.pend := by
  simp only [writeBack, writeBackR, updateA, State.writeBuf]
@[simp] theorem writeBack_b (s : State) : (writeBack s).b = s.b := by
  simp only [writeBack, writeBackR, updateA, State.writeBuf]
@[simp] theorem writeBack_buf (s : State) : (writeBack s).buf = Memory.writeBytes (Memory.writeBytes s.buf 0 (foldCounter s.b (counter s.n s.j s.i)).toList) (slotSel s.i) (loSlot s.b).toList := by
  simp only [writeBack, writeBackR, updateA, State.writeBuf]
@[simp] theorem writeBack_aesReq (s : State) : (writeBack s).aesReq = s.aesReq := by
  simp only [writeBack, writeBackR, updateA, State.writeBuf]
@[simp] theorem writeBack_aesResp (s : State) : (writeBack s).aesResp = s.aesResp := by
  simp only [writeBack, writeBackR, updateA, State.writeBuf]
@[simp] theorem writeBack_aesKey (s : State) : (writeBack s).aesKey = s.aesKey := by
  simp only [writeBack, writeBackR, updateA, State.writeBuf]
@[simp] theorem writeBack_gnt (s : State) : (writeBack s).gnt = s.gnt := by
  simp only [writeBack, writeBackR, updateA, State.writeBuf]
@[simp] theorem writeBack_faults (s : State) : (writeBack s).faults = s.faults := by
  simp only [writeBack, writeBackR, updateA, State.writeBuf]
@[simp] theorem writeBack_refused (s : State) : (writeBack s).refused = s.refused := by
  simp only [writeBack, writeBackR, updateA, State.writeBuf]
@[simp] theorem writeBack_busData (s : State) : (writeBack s).busData = s.busData := by
  simp only [writeBack, writeBackR, updateA, State.writeBuf]
@[simp] theorem writeBack_draws (s : State) : (writeBack s).draws = s.draws := by
  simp only [writeBack, writeBackR, updateA, State.writeBuf]
@[simp] theorem writeBack_agenda (s : State) : (writeBack s).agenda = s.agenda := by
  simp only [writeBack, writeBackR, updateA, State.writeBuf]
@[simp] theorem writeBack_clock (s : State) : (writeBack s).clock = s.clock := by
  simp only [writeBack, writeBackR, updateA, State.writeBuf]

/-! ### `report` -/

@[simp] theorem report_n (s : State) : (report s).n = s.n := by
  unfold report; split <;> rfl
@[simp] theorem report_kekLen (s : State) : (report s).kekLen = s.kekLen := by
  unfold report; split <;> rfl
@[simp] theorem report_kek (s : State) : (report s).kek = s.kek := by
  unfold report; split <;> rfl
@[simp] theorem report_st (s : State) : (report s).st = s.st := by
  unfold report; split <;> rfl
@[simp] theorem report_j (s : State) : (report s).j = s.j := by
  unfold report; split <;> rfl
@[simp] theorem report_i (s : State) : (report s).i = s.i := by
  unfold report; split <;> rfl
@[simp] theorem report_pend (s : State) : (report s).pend = s.pend := by
  unfold report; split <;> rfl
@[simp] theorem report_b (s : State) : (report s).b = s.b := by
  unfold report; split <;> rfl
@[simp] theorem report_buf (s : State) : (report s).buf = s.buf := by
  unfold report; split <;> rfl
@[simp] theorem report_aesReq (s : State) : (report s).aesReq = s.aesReq := by
  unfold report; split <;> rfl
@[simp] theorem report_aesResp (s : State) : (report s).aesResp = s.aesResp := by
  unfold report; split <;> rfl
@[simp] theorem report_aesKey (s : State) : (report s).aesKey = s.aesKey := by
  unfold report; split <;> rfl
@[simp] theorem report_gnt (s : State) : (report s).gnt = s.gnt := by
  unfold report; split <;> rfl
@[simp] theorem report_faults (s : State) : (report s).faults = s.faults := by
  unfold report; split <;> rfl
@[simp] theorem report_refused (s : State) : (report s).refused = s.refused := by
  unfold report; split <;> rfl
@[simp] theorem report_busData (s : State) : (report s).busData = s.busData := by
  unfold report; split <;> rfl
@[simp] theorem report_draws (s : State) : (report s).draws = s.draws := by
  unfold report; split <;> rfl
@[simp] theorem report_agenda (s : State) : (report s).agenda = s.agenda := by
  unfold report; split <;> rfl
@[simp] theorem report_clock (s : State) : (report s).clock = s.clock := by
  unfold report; split <;> rfl

end Sys2Proof.Machine
end

