-- ==== Sys2Proof/Laws/Memory.lean ====
section
/-! SUPPORT. The buffer's laws: a read after a write, the canonical form, and slots (spec/10_state.md R34, R39, spec/20_memory.md R60). -/

namespace Sys2Proof.Machine

/-! ## One byte -/

theorem Memory.read_write_same (m : Memory) (a : Nat) (v : Byte) : Memory.read (Memory.write m a v) a = some v := by
  induction m with
  | nil => simp [Memory.write, Memory.read]
  | cons c m ih =>
    obtain ⟨k, w⟩ := c
    by_cases h1 : a < k
    · simp [Memory.write, Memory.read, h1]
    · by_cases h2 : a = k
      · simp [Memory.write, Memory.read, h2]
      · simp [Memory.write, Memory.read, h1, h2, Ne.symm h2, ih]

theorem Memory.read_write_other (m : Memory) {a c : Nat} (v : Byte) (h : c ≠ a) :
    Memory.read (Memory.write m a v) c = Memory.read m c := by
  induction m with
  | nil => simp [Memory.write, Memory.read, Ne.symm h]
  | cons x m ih =>
    obtain ⟨k, w⟩ := x
    by_cases h1 : a < k
    · simp [Memory.write, Memory.read, h1, Ne.symm h]
    · by_cases h2 : a = k
      · subst h2; simp [Memory.write, Memory.read, Ne.symm h]
      · by_cases h3 : k = c
        · subst h3; simp [Memory.write, Memory.read, h1, h2]
        · simp [Memory.write, Memory.read, h1, h2, h3, ih]

theorem Memory.read_write (m : Memory) (a c : Nat) (v : Byte) :
    Memory.read (Memory.write m a v) c = if c = a then some v else Memory.read m c := by
  split
  · rename_i h; rw [h, Memory.read_write_same]
  · rename_i h; exact Memory.read_write_other m v h

/-- Every offset of a canonical buffer lies above the bound its first entry is above. -/
theorem Memory.write_wf_bound (m : Memory) (k a : Nat) (w v : Byte) (hk : k < a)
    (h : Memory.wf ((k, w) :: m) = true) : Memory.wf ((k, w) :: Memory.write m a v) = true := by
  induction m generalizing k w with
  | nil => simp [Memory.write, Memory.wf, hk]
  | cons x m ih =>
    obtain ⟨k2, w2⟩ := x
    simp only [Memory.wf, Bool.and_eq_true, decide_eq_true_eq] at h
    by_cases h1 : a < k2
    · simp [Memory.write, h1, Memory.wf, hk, h.2]
    · by_cases h2 : a = k2
      · subst h2
        have : Memory.wf ((a, v) :: m) = true := by
          cases m with
          | nil => rfl
          | cons y m => simpa [Memory.wf] using h.2
        simp [Memory.write, Memory.wf, hk, this]
      · have := ih k2 w2 (by omega) h.2
        simp [Memory.write, h1, h2, Memory.wf, h.1, this]

/-- Writing keeps the canonical form. -/
theorem Memory.write_wf (m : Memory) (a : Nat) (v : Byte) (h : Memory.wf m = true) :
    Memory.wf (Memory.write m a v) = true := by
  cases m with
  | nil => rfl
  | cons x m =>
    obtain ⟨k, w⟩ := x
    by_cases h1 : a < k
    · simp [Memory.write, h1, Memory.wf, h]
    · by_cases h2 : a = k
      · subst h2
        cases m with
        | nil => simp [Memory.write, Memory.wf]
        | cons y m => simpa [Memory.write, Memory.wf] using h
      · have := Memory.write_wf_bound m k a w v (by omega) h
        simpa [Memory.write, h1, h2] using this

/-! ## Bytes -/

/-- What writing bytes makes of every offset. -/
theorem Memory.read_writeBytes (m : Memory) (a c : Nat) (bs : List Byte) :
    Memory.read (Memory.writeBytes m a bs) c =
      if a ≤ c ∧ c < a + bs.length then bs[c - a]? else Memory.read m c := by
  induction bs generalizing m a with
  | nil => simp [Memory.writeBytes]
  | cons v bs ih =>
    rw [Memory.writeBytes, ih, Memory.read_write]
    by_cases h : c = a
    · subst h; simp
    · by_cases h2 : a + 1 ≤ c ∧ c < a + 1 + bs.length
      · rw [if_pos h2, if_pos (by simp; omega)]
        obtain ⟨d, hd⟩ : ∃ d, c - a = d + 1 := ⟨c - a - 1, by omega⟩
        rw [hd, show c - (a + 1) = d by omega]; simp
      · rw [if_neg h2, if_neg h, if_neg (by simp; omega)]

theorem Memory.read_writeBytes_other (m : Memory) {a c : Nat} (bs : List Byte) (h : c < a ∨ a + bs.length ≤ c) :
    Memory.read (Memory.writeBytes m a bs) c = Memory.read m c := by
  rw [Memory.read_writeBytes, if_neg (by omega)]

/-- Writing bytes keeps the canonical form. -/
theorem Memory.writeBytes_wf (m : Memory) (a : Nat) (bs : List Byte) (h : Memory.wf m = true) :
    Memory.wf (Memory.writeBytes m a bs) = true := by
  induction bs generalizing m a with
  | nil => exact h
  | cons v bs ih => exact ih _ _ (Memory.write_wf m a v h)

/-- Writing bytes inside a bound keeps every written byte inside it. -/
theorem Memory.writeBytes_extent (m : Memory) (a : Nat) (bs : List Byte) (hi : Nat)
    (h : ∀ c, (Memory.read m c).isSome = true → c < hi) (ha : a + bs.length ≤ hi) :
    ∀ c, (Memory.read (Memory.writeBytes m a bs) c).isSome = true → c < hi := by
  intro c hc
  rw [Memory.read_writeBytes] at hc
  split at hc
  · omega
  · exact h c hc

theorem Memory.written_iff (m : Memory) (a len : Nat) :
    Memory.written m a len = true ↔ ∀ k, k < len → (Memory.read m (a + k)).isSome = true := by
  simp [Memory.written]

/-- A byte that is written stays written (R39). -/
theorem Memory.written_writeBytes (m : Memory) (a len c : Nat) (bs : List Byte)
    (h : Memory.written m a len = true) : Memory.written (Memory.writeBytes m c bs) a len = true := by
  rw [Memory.written_iff] at h ⊢
  intro k hk
  rw [Memory.read_writeBytes]
  split
  · rename_i hr
    simp; omega
  · exact h k hk

/-- The bytes just written are written. -/
theorem Memory.written_writeBytes_same (m : Memory) (a : Nat) (bs : List Byte) :
    Memory.written (Memory.writeBytes m a bs) a bs.length = true := by
  rw [Memory.written_iff]
  intro k hk
  rw [Memory.read_writeBytes, if_pos (by omega)]
  simp [hk]

/-! ## Slots -/

/-- A slot is there exactly when its eight bytes are, and holds them. -/
theorem Memory.slot_eq_some_iff (m : Memory) (k : Nat) (x : Slot) :
    Memory.slot m k = some x ↔ ∀ b (h : b < 8), Memory.read m (8 * k + b) = some x[b] := by
  constructor
  · intro h b hb
    unfold Memory.slot at h
    split at h
    · rename_i hw
      rw [Memory.written_iff] at hw
      have hs := hw b hb
      obtain ⟨v, hv⟩ := Option.isSome_iff_exists.1 hs
      have : x = vec 8 fun b => (Memory.read m (8 * k + b)).getD 0 := by simpa using h.symm
      subst this
      simp [hv]
    · simp at h
  · intro h
    have hw : Memory.written m (8 * k) 8 = true := by
      rw [Memory.written_iff]
      intro b hb; simp [h b hb]
    unfold Memory.slot
    rw [if_pos hw]
    congr 1
    apply Vector.ext
    intro b hb
    simp [h b hb]

theorem Memory.slot_isSome_iff (m : Memory) (k : Nat) :
    (Memory.slot m k).isSome = true ↔ Memory.written m (8 * k) 8 = true := by
  unfold Memory.slot; split <;> simp_all

/-- A slot that depends on equal bytes is equal. -/
theorem Memory.slot_congr (m m' : Memory) (k : Nat)
    (h : ∀ b, b < 8 → Memory.read m' (8 * k + b) = Memory.read m (8 * k + b)) :
    Memory.slot m' k = Memory.slot m k := by
  have hw : Memory.written m' (8 * k) 8 = Memory.written m (8 * k) 8 := by
    rw [Bool.eq_iff_iff, Memory.written_iff, Memory.written_iff]
    constructor <;> intro hh b hb
    · rw [← h b hb]; exact hh b hb
    · rw [h b hb]; exact hh b hb
  unfold Memory.slot
  rw [hw]
  split
  · congr 1
    apply Vector.ext
    intro b hb
    simp [h b hb]
  · rfl

/-- A slot just written holds what was written. -/
theorem Memory.slot_writeSlot_same (m : Memory) (k : Nat) (x : Slot) :
    Memory.slot (Memory.writeBytes m (8 * k) x.toList) k = some x := by
  rw [Memory.slot_eq_some_iff]
  intro b hb
  rw [Memory.read_writeBytes, if_pos (by simp; omega)]
  simp [hb]

/-- Writing a slot leaves every other slot alone. -/
theorem Memory.slot_writeSlot_other (m : Memory) {k l : Nat} (x : Slot) (h : l ≠ k) :
    Memory.slot (Memory.writeBytes m (8 * k) x.toList) l = Memory.slot m l := by
  apply Memory.slot_congr
  intro b hb
  apply Memory.read_writeBytes_other
  simp; omega

/-- A write into BUF keeps the canonical form. -/
theorem State.writeBuf_wf (s : State) (a : Nat) (bs : List Byte) (h : Memory.wf s.buf = true) :
    Memory.wf (s.writeBuf a bs).buf = true := Memory.writeBytes_wf _ _ _ h

/-- BUF right after reset, with nothing written, is in canonical form (R240). -/
theorem State.reset_buf_wf : Memory.wf State.reset.buf = true := rfl

end Sys2Proof.Machine
end

