-- ==== Sys2Proof/Laws/Params.lean ====
section
/-! SUPPORT. The constraints of spec/00_scope.md R7 hold of every value of the parameters. -/

namespace Sys2Proof

/-- `P_MIN_N ∈ {1, 2}` (R7). -/
theorem Params.pMinN_values (p : Params) : p.pMinN = 1 ∨ p.pMinN = 2 := by
  unfold Params.pMinN; omega

/-- `P_MIN_N <= N_MAX` (R7). -/
theorem Params.pMinN_le_nMax (p : Params) : p.pMinN ≤ p.nMax := le_max_left _ _

/-- `N_MAX <= 715827882` (R7). -/
theorem Params.nMax_le (p : Params) : p.nMax ≤ 715827882 := by
  have h := p.pMinN_values
  have := p.nMaxCode.isLt
  unfold Params.nMax; omega

/-- `N_MAX >= 1` (R7). -/
theorem Params.one_le_nMax (p : Params) : 1 ≤ p.nMax := by
  have h := p.pMinN_values
  have := p.pMinN_le_nMax
  omega

/-- Every pair of values R7 allows is taken by some parameters. -/
theorem Params.all_values (a m : Nat) (ha : a = 1 ∨ a = 2) (hm : a ≤ m) (hM : m ≤ 715827882) :
    ∃ p : Params, p.pMinN = a ∧ p.nMax = m := by
  refine ⟨{ (default : Params) with pMinCode := ⟨a - 1, by omega⟩, nMaxCode := ⟨m, by omega⟩ }, ?_, ?_⟩
  · simp [Params.pMinN]; omega
  · simp [Params.nMax, Params.pMinN]; omega

/-- `BASE` is 4-byte aligned (R7). -/
theorem Params.base_aligned (p : Params) : p.base % 4 = 0 := by
  unfold Params.base; omega

end Sys2Proof
end

