-- ==== Sys2Proof/Laws/Engine.lean ====
section
/-! SUPPORT. Everything each meaning can do, said once: either the agent is held and the state stays, or its enabling condition
holds and the next state is the one given. The provers cite these lemmas instead of unfolding a meaning. -/

namespace Sys2Proof.Machine

@[simp] theorem State.busy_iff (s : State) : s.busy = true ↔ s.st ≠ .idle := by simp [State.busy]

theorem State.busy_eq_false_iff (s : State) : s.busy = false ↔ s.st = .idle := by simp [State.busy]

@[simp] theorem State.portEmpty_iff (s : State) : s.portEmpty = true ↔ s.aesReq = none ∧ s.aesResp = none := by
  simp [State.portEmpty]

@[simp] theorem State.engineIn_iff (s : State) (x : FsmState) :
    s.engineIn x = true ↔ s.faults.isEmpty = true ∧ s.st = x := by simp [State.engineIn]

@[simp] theorem State.aesAsked_iff (s : State) (q : AesReq) :
    s.aesAsked q = true ↔ s.faults.isEmpty = true ∧ s.aesReq = some q ∧ s.aesResp = none := by
  simp [State.aesAsked, and_assoc]

@[simp] theorem State.acqReq_iff (s : State) : s.acqReq = true ↔ s.st ≠ .idle := by simp [State.acqReq]

/-- The resource is held in every state but IDLE and ACQ (R35). -/
theorem State.held_iff (s : State) : s.held = true ↔ s.st ≠ .idle ∧ s.st ≠ .acq := by
  unfold State.held; cases s.st <;> simp

/-- A reason inserted is in the set, and the set keeps the others. -/
theorem FaultSet.mem_insert (f : FaultSet) (r x : ModelFault) :
    (f.insert r).mem x = true ↔ x = r ∨ f.mem x = true := by
  cases r <;> cases x <;> simp [FaultSet.insert, FaultSet.mem]

/-- No fault is recorded exactly when no reason is in the set. -/
theorem FaultSet.isEmpty_iff (f : FaultSet) : f.isEmpty = true ↔ ∀ r, f.mem r = false := by
  constructor
  · intro h r; cases r <;> simp_all [FaultSet.isEmpty, FaultSet.mem]
  · intro h
    have h1 := h .uninitBuf; have h2 := h .aesNoKey; have h3 := h .aesProtocol
    simp_all [FaultSet.isEmpty, FaultSet.mem]

/-! ## Commands -/

/-- WRAP: dropped, rejected for N, rejected for KEKLEN, or accepted (R124, R126). -/
theorem wrapCommand_cases (p : Params) (s : State) :
    (s.st ≠ .idle ∧ wrapCommand p s = s) ∨
    (s.st = .idle ∧ (s.n.toNat < p.pMinN ∨ p.nMax < s.n.toNat) ∧
      wrapCommand p s = { s with done := false, err := true, errCode := .badN }) ∨
    (s.st = .idle ∧ p.pMinN ≤ s.n.toNat ∧ s.n.toNat ≤ p.nMax ∧ 32 < s.kekLen.toNat ∧
      wrapCommand p s = { s with done := false, err := true, errCode := .badKeklen }) ∨
    (s.st = .idle ∧ p.pMinN ≤ s.n.toNat ∧ s.n.toNat ≤ p.nMax ∧ s.kekLen.toNat ≤ 32 ∧
      wrapCommand p s = { s with done := false, err := false, errCode := .none, pend := .none, st := .acq }) := by
  by_cases h0 : s.st = .idle
  · have hb : s.busy = false := (State.busy_eq_false_iff s).2 h0
    by_cases h1 : s.n.toNat < p.pMinN ∨ p.nMax < s.n.toNat
    · exact .inr (.inl ⟨h0, h1, by simp [wrapCommand, hb, h1, State.rejectCommand, State.raiseError]⟩)
    · by_cases h2 : 32 < s.kekLen.toNat
      · refine .inr (.inr (.inl ⟨h0, by omega, by omega, h2, ?_⟩))
        simp [wrapCommand, hb, h1, h2, State.rejectCommand, State.raiseError]
      · refine .inr (.inr (.inr ⟨h0, by omega, by omega, by omega, ?_⟩))
        simp [wrapCommand, hb, h1, h2, State.clearFlags]
  · exact .inl ⟨h0, by simp [wrapCommand, (State.busy_iff s).2 h0]⟩

/-- An illegal command: dropped or reported (R125, R126). -/
theorem illegalCommand_cases (s : State) :
    (s.st ≠ .idle ∧ illegalCommand s = s) ∨
    (s.st = .idle ∧ illegalCommand s = { s with done := false, err := true, errCode := .illegalCmd }) := by
  by_cases h0 : s.st = .idle
  · exact .inr ⟨h0, by simp [illegalCommand, (State.busy_eq_false_iff s).2 h0, State.rejectCommand, State.raiseError]⟩
  · exact .inl ⟨h0, by simp [illegalCommand, (State.busy_iff s).2 h0]⟩

/-! ## The AES agent -/

/-- The key setup: held, or answered (R176). -/
theorem setKeyStep_cases (p : Params) (kl : BitVec 6) (key : KeyField) (s : State) :
    (s.aesAsked (.setKey kl key) = false ∧ setKeyStep p kl key s = s) ∨
    (s.faults.isEmpty = true ∧ s.aesReq = some (.setKey kl key) ∧ s.aesResp = none ∧
      setKeyStep p kl key s = { s with
        aesReq := none
        aesResp := some ⟨.setKey, p.keyOk kl (keyBytes kl key), vec 16 fun _ => 0⟩
        aesKey := if p.keyOk kl (keyBytes kl key) = true then some (kl, keyBytes kl key) else none }) := by
  cases h : s.aesAsked (.setKey kl key)
  · exact .inl ⟨rfl, by simp [setKeyStep, h]⟩
  · have h2 := (State.aesAsked_iff s _).1 h
    exact .inr ⟨h2.1, h2.2.1, h2.2.2, by simp [setKeyStep, h, State.respond]⟩

/-- The block encryption: held, without a key, or answered (R177). -/
theorem encryptStep_cases (p : Params) (blk : Block) (s : State) :
    (s.aesAsked (.encrypt blk) = false ∧ encryptStep p blk s = s) ∨
    (s.faults.isEmpty = true ∧ s.aesReq = some (.encrypt blk) ∧ s.aesResp = none ∧ s.aesKey = none ∧
      encryptStep p blk s = s.recordFault .aesNoKey) ∨
    (∃ kl k, s.faults.isEmpty = true ∧ s.aesReq = some (.encrypt blk) ∧ s.aesResp = none ∧ s.aesKey = some (kl, k) ∧
      encryptStep p blk s =
        { s with aesReq := none, aesResp := some ⟨.encrypt, true, p.aesEnc kl k blk⟩ }) := by
  cases h : s.aesAsked (.encrypt blk)
  · exact .inl ⟨rfl, by simp [encryptStep, h]⟩
  · have h2 := (State.aesAsked_iff s _).1 h
    cases hk : s.aesKey with
    | none => exact .inr (.inl ⟨h2.1, h2.2.1, h2.2.2, rfl, by simp [encryptStep, h, hk]⟩)
    | some x =>
      obtain ⟨kl, k⟩ := x
      exact .inr (.inr ⟨kl, k, h2.1, h2.2.1, h2.2.2, rfl, by simp [encryptStep, h, hk, State.respond]⟩)

/-! ## The Engine -/

/-- ACQ: held, or the key setup issued (R144). -/
theorem acqStep_cases (s : State) :
    acqStep s = s ∨
    (s.faults.isEmpty = true ∧ s.st = .acq ∧ s.gnt = true ∧ s.aesReq = none ∧ s.aesResp = none ∧
      acqStep s = { s with aesReq := some (setKeyReq s), st := .setkey }) := by
  by_cases h : (s.engineIn .acq && s.gnt && s.portEmpty) = true
  · have h2 := h
    simp only [Bool.and_eq_true, State.engineIn_iff, State.portEmpty_iff] at h2
    exact .inr ⟨h2.1.1.1, h2.1.1.2, h2.1.2, h2.2.1, h2.2.2, by rw [acqStep, if_pos h]; rfl⟩
  · exact .inl (by rw [acqStep, if_neg h])

/-- SETKEY: held, accepted, rejected, or a response of another kind (R145, R175). -/
theorem setkeyStep_cases (s : State) :
    setkeyStep s = s ∨
    (∃ r, s.faults.isEmpty = true ∧ s.st = .setkey ∧ s.aesResp = some r ∧
      ((r.rop = .setKey ∧ r.ok = true ∧ setkeyStep s = { s with aesResp := none, st := .init }) ∨
       (r.rop = .setKey ∧ r.ok = false ∧
         setkeyStep s = { s with aesResp := none, pend := .keySetupFail, st := .rel }) ∨
       (r.rop = .encrypt ∧ setkeyStep s = s.recordFault .aesProtocol))) := by
  by_cases h : s.engineIn .setkey = true
  · have h2 := (State.engineIn_iff s _).1 h
    cases hr : s.aesResp with
    | none => exact .inl (by simp [setkeyStep, h, hr])
    | some r =>
      refine .inr ⟨r, h2.1, h2.2, rfl, ?_⟩
      obtain ⟨rop, ok, blk⟩ := r
      cases rop <;> cases ok <;> simp [setkeyStep, h, hr, State.takeResp]
  · exact .inl (by simp [setkeyStep, h])

/-- INIT: held, or A and the indices initialised (R146). -/
theorem initStep_cases (s : State) :
    initStep s = s ∨
    (s.faults.isEmpty = true ∧ s.st = .init ∧
      initStep s =
        { s with buf := Memory.writeBytes s.buf (8 * 0) aInit.toList, j := 0, i := 1, st := .form }) := by
  by_cases h : s.engineIn .init = true
  · have h2 := (State.engineIn_iff s _).1 h
    exact .inr ⟨h2.1, h2.2, by rw [initStep, if_pos h]; rfl⟩
  · exact .inl (by simp [initStep, h])

/-- FORM: held, outside the buffer, over an unwritten block, or the encryption issued (R147). -/
theorem formStep_cases (p : Params) (s : State) :
    formStep p s = .next s ∨
    (s.faults.isEmpty = true ∧ s.st = .form ∧ s.aesReq = none ∧ s.aesResp = none ∧
      ((p.nMax < s.i.toNat ∧ formStep p s = .fault .bufRange) ∨
       (s.i.toNat ≤ p.nMax ∧ Memory.written s.buf (8 * s.i.toNat) 8 = false ∧
         formStep p s = .next (s.recordFault .uninitBuf)) ∨
       (s.i.toNat ≤ p.nMax ∧ Memory.written s.buf (8 * s.i.toNat) 8 = true ∧
         formStep p s = .next { s with
           b := formedBlock s.i s, draws := s.draws + s.drawCount 0 8
           aesReq := some (.encrypt (formedBlock s.i s)), st := .encwait }))) := by
  by_cases h : (s.engineIn .form && s.portEmpty) = true
  · have h2 := h
    simp only [Bool.and_eq_true, State.engineIn_iff, State.portEmpty_iff] at h2
    refine .inr ⟨h2.1.1, h2.1.2, h2.2.1, h2.2.2, ?_⟩
    by_cases hr : p.nMax < s.i.toNat
    · exact .inl ⟨hr, by rw [formStep, if_pos h, if_pos hr]⟩
    · cases hw : Memory.written s.buf (8 * s.i.toNat) 8
      · exact .inr (.inl ⟨by omega, rfl, by
          rw [formStep, if_pos h, if_neg hr, if_neg (by rw [slotSel, hw]; simp)]⟩)
      · refine .inr (.inr ⟨by omega, rfl, ?_⟩)
        rw [formStep, if_pos h, if_neg hr, if_pos (by rw [slotSel, hw])]
        simp only [formBlock, State.issue]
  · exact .inl (by rw [formStep, if_neg h])

/-- ENCWAIT: held, the block taken, or a response of another kind (R148, R175). -/
theorem encwaitStep_cases (s : State) :
    encwaitStep s = s ∨
    (∃ r, s.faults.isEmpty = true ∧ s.st = .encwait ∧ s.aesResp = some r ∧
      ((r.rop = .encrypt ∧ encwaitStep s = { s with aesResp := none, b := r.blk, st := .update }) ∨
       (r.rop = .setKey ∧ encwaitStep s = s.recordFault .aesProtocol))) := by
  by_cases h : s.engineIn .encwait = true
  · have h2 := (State.engineIn_iff s _).1 h
    cases hr : s.aesResp with
    | none => exact .inl (by simp [encwaitStep, h, hr])
    | some r =>
      refine .inr ⟨r, h2.1, h2.2, rfl, ?_⟩
      obtain ⟨rop, ok, blk⟩ := r
      cases rop <;> simp [encwaitStep, h, hr, State.takeResp]
  · exact .inl (by simp [encwaitStep, h])

/-- The buffer after an UPDATE: slot 0, then slot i (R149). -/
def writtenBack (s : State) : Memory :=
  Memory.writeBytes (Memory.writeBytes s.buf (8 * 0) (foldCounter s.b (counter s.n s.j s.i)).toList)
    (8 * s.i.toNat) (loSlot s.b).toList

/-- UPDATE: held, outside the buffer, or written back and advanced (R149). -/
theorem updateStep_cases (p : Params) (s : State) :
    updateStep p s = .next s ∨
    (s.faults.isEmpty = true ∧ s.st = .update ∧
      ((p.nMax < s.i.toNat ∧ updateStep p s = .fault .bufRange) ∨
       (s.i.toNat ≤ p.nMax ∧
         updateStep p s = .next { s with
           buf := writtenBack s, j := (advance s.j s.i s.n).1, i := (advance s.j s.i s.n).2.1
           st := (advance s.j s.i s.n).2.2 }))) := by
  by_cases h : s.engineIn .update = true
  · have h2 := (State.engineIn_iff s _).1 h
    refine .inr ⟨h2.1, h2.2, ?_⟩
    by_cases hr : p.nMax < s.i.toNat
    · exact .inl ⟨hr, by rw [updateStep, if_pos h, if_pos hr]⟩
    · refine .inr ⟨by omega, ?_⟩
      rw [updateStep, if_pos h, if_neg hr]
      simp only [writeBack, writeBackR, updateA, State.writeBuf, writtenBack, slotSel, Nat.mul_zero]
  · exact .inl (by simp [updateStep, h])

/-- Advance: the next block of the round, the next round, or the end (R151). -/
theorem advance_cases (j : BitVec 3) (i n : Word) :
    (i.toNat < n.toNat ∧ advance j i n = (j, i + 1, .form)) ∨
    (n.toNat ≤ i.toNat ∧ j.toNat < 5 ∧ advance j i n = (j + 1, 1, .form)) ∨
    (n.toNat ≤ i.toNat ∧ 5 ≤ j.toNat ∧ advance j i n = (j, i, .rel)) := by
  by_cases h1 : i < n
  · exact .inl ⟨by simpa [BitVec.lt_def] using h1, by simp [advance, h1]⟩
  · have h1' : n.toNat ≤ i.toNat := by simpa [BitVec.lt_def] using h1
    by_cases h2 : j < 5
    · exact .inr (.inl ⟨h1', by simpa [BitVec.lt_def] using h2, by rw [advance, if_neg h1, if_pos h2]⟩)
    · exact .inr (.inr ⟨h1', by simpa [BitVec.lt_def] using h2, by rw [advance, if_neg h1, if_neg h2]⟩)

/-- REL: held, success reported, or the pending error reported (R152). -/
theorem relStep_cases (s : State) :
    relStep s = s ∨
    (s.faults.isEmpty = true ∧ s.st = .rel ∧
      ((s.pend = .none ∧ relStep s = { s with st := .idle, gnt := false, done := true }) ∨
       (s.pend ≠ .none ∧ relStep s = { s with st := .idle, gnt := false, err := true, errCode := s.pend }))) := by
  by_cases h : s.engineIn .rel = true
  · have h2 := (State.engineIn_iff s _).1 h
    refine .inr ⟨h2.1, h2.2, ?_⟩
    by_cases hp : s.pend = .none
    · exact .inl ⟨hp, by simp [relStep, h, report, hp]⟩
    · exact .inr ⟨hp, by simp [relStep, h, report, hp, State.raiseError]⟩
  · exact .inl (by simp [relStep, h])

/-! ## The Host and the Arbiter -/

/-- A Host read changes the returned datum, the draws used up and, where it is refused, the mark (R110). -/
theorem hostRead_cases (p : Params) (a : BusAddr) (width : Nat) (s : State) :
    (access p a width = none ∧ hostRead p a width s = { s with refused := true, busData := none }) ∨
    (∃ t, access p a width = some t ∧
      hostRead p a width s = { s with busData := some (readValue s t), draws := s.draws + readDraws s t }) := by
  cases h : access p a width with
  | none => exact .inl ⟨rfl, by simp [hostRead, h, State.refuse]⟩
  | some t => exact .inr ⟨t, rfl, by simp [hostRead, h]⟩

/-- A write that is no command: nothing changes, or one of N, KEKLEN, KEKk and a BUF word does, and only while idle (R111). -/
theorem writeTarget_cases (v : Word) (s : State) (t : Target) :
    writeTarget v s t = s ∨
    (s.st = .idle ∧
      ((t = .n ∧ writeTarget v s t = { s with n := v }) ∨
       (t = .kekLen ∧ writeTarget v s t = { s with kekLen := v.setWidth 6 }) ∨
       (∃ k, t = .kek k ∧ writeTarget v s t = { s with kek := s.kek.set k v }) ∨
       (∃ w, t = .buf w ∧ writeTarget v s t = { s with buf := Memory.writeBytes s.buf (4 * w) (wordBytes v) }))) := by
  by_cases h0 : s.st = .idle
  · have hb := (State.busy_eq_false_iff s).2 h0
    cases t <;> simp [writeTarget, writeN, writeKekLen, writeKek, writeBufWord, hb, h0, State.writeBuf]
  · have hb := (State.busy_iff s).2 h0
    cases t <;> simp [writeTarget, writeN, writeKekLen, writeKek, writeBufWord, hb]

/-- A BUF target lies inside BUF, all its four bytes (R68, R92). -/
theorem target_buf (p : Params) (off w : Nat) (h : target p off = some (.buf w)) (ha : off % 4 = 0) :
    off = 0x100 + 4 * w ∧ 4 * w + 4 ≤ p.bufBytes := by
  unfold target at h
  repeat' split at h
  all_goals simp at h
  have := p.windowBytes
  rename_i hlt
  simp only [Params.windowBytes, Params.bufBytes] at hlt ⊢
  omega

theorem access_buf (p : Params) (a : BusAddr) (width w : Nat) (h : access p a width = some (.buf w)) :
    4 * w + 4 ≤ p.bufBytes := by
  unfold access at h
  split at h
  · simp at h
  · split at h
    · rename_i hh; exact (target_buf p _ w h hh.2).2
    · simp at h

/-- The Arbiter: nothing, or the grant raised on a request (R143). -/
theorem arbiterStep_cases (s : State) :
    arbiterStep s = s ∨ (s.st ≠ .idle ∧ s.gnt = false ∧ arbiterStep s = { s with gnt := true }) := by
  by_cases h : (s.acqReq && !s.gnt) = true
  · have h2 := h
    simp only [Bool.and_eq_true, State.acqReq_iff, Bool.not_eq_true'] at h2
    exact .inr ⟨h2.1, h2.2, by rw [arbiterStep, if_pos h]⟩
  · exact .inl (by rw [arbiterStep, if_neg h])

end Sys2Proof.Machine
end

