-- ==== Sys2Proof/Laws/PerInstr.lean ====
section
/-! SUPPORT. Statements made per instruction, one lemma for each constructor (spec/30_encoding.md R80, R81, R88 to R90). -/

namespace Sys2Proof.Laws.EncodingLength

/-- How many bytes a row's words take: four for a command, one for a state code, the header and the payload of R90 for a
request. -/
def rowBytes : Instr → Nat
  | .nop | .wrap | .illegalCmd _ => 4
  | .aesSetkey _ _ => 1 + 1 + 32
  | .aesEncrypt _ => 1 + 16
  | .fsmIdle | .fsmAcq | .fsmSetkey | .fsmInit | .fsmForm | .fsmEncwait | .fsmUpdate | .fsmRel => 1

/-- Every format has a fixed width (R80, R95): an instruction's encoding has the length of its row, whatever its fields. -/
def Statement (i : Instr) : Prop := (encode i).length = rowBytes i

theorem nop : Statement .nop := rfl
theorem wrap : Statement .wrap := rfl
theorem illegalCmd (word : Word) : Statement (.illegalCmd word) := rfl
theorem aesSetkey (klen : BitVec 6) (key : KeyField) : Statement (.aesSetkey klen key) := by
  simp [Statement, encode, rowBytes]
theorem aesEncrypt (blk : Block) : Statement (.aesEncrypt blk) := by simp [Statement, encode, rowBytes]
theorem fsmIdle : Statement .fsmIdle := rfl
theorem fsmAcq : Statement .fsmAcq := rfl
theorem fsmSetkey : Statement .fsmSetkey := rfl
theorem fsmInit : Statement .fsmInit := rfl
theorem fsmForm : Statement .fsmForm := rfl
theorem fsmEncwait : Statement .fsmEncwait := rfl
theorem fsmUpdate : Statement .fsmUpdate := rfl
theorem fsmRel : Statement .fsmRel := rfl

end Sys2Proof.Laws.EncodingLength
end

