-- ==== Sys2Proof/Laws/Step.lean ====
section
/-! SUPPORT. What one step can do: it takes one scheduling choice, and runs the instruction that choice finds or its plain effect. -/

namespace Sys2Proof.Machine

/-- The step at a state with a choice on its agenda. -/
theorem step_sched (s : State) (e : Event) :
    step (s.sched e) =
      match instrOf Config.params e s with
      | some i => exec i s
      | none => .next (plainStep Config.params e s) := rfl

/-- Every step is the step of a state with a choice on its agenda that agrees with it in all but agenda and clock. -/
theorem step_eq_sched (s : State) :
    ∃ (e : Event) (s' : State), step s = step (s'.sched e) ∧ s' = { s with agenda := s'.agenda, clock := s'.clock } := by
  cases h : s.agenda with
  | nil => exact ⟨Config.freeEvent s.clock, { s with clock := s.clock + 1 }, by simp [step, takeEvent, State.sched, h], rfl⟩
  | cons e es => exact ⟨e, { s with agenda := es }, by simp [step, takeEvent, State.sched, h], rfl⟩

/-- The Engine always finds the step of its state (R88, R140). -/
theorem step_engine (s : State) :
    step (s.sched .engine) =
      exec (match s.st with
        | .idle => .fsmIdle | .acq => .fsmAcq | .setkey => .fsmSetkey | .init => .fsmInit
        | .form => .fsmForm | .encwait => .fsmEncwait | .update => .fsmUpdate | .rel => .fsmRel) s := by
  have h : instrOf Config.params .engine s =
      some (match s.st with
        | .idle => .fsmIdle | .acq => .fsmAcq | .setkey => .fsmSetkey | .init => .fsmInit
        | .form => .fsmForm | .encwait => .fsmEncwait | .update => .fsmUpdate | .rel => .fsmRel) := by
    change decodedInstr (decode .fsmState [s.st.code.setWidth 8]) = _
    generalize s.st = x
    cases x <;> decide
  rw [step_sched, h]

/-- A word is put together from its lanes (R62). -/
theorem ofLanes_lanes (v : Word) : ofLanes (lane v 0) (lane v 1) (lane v 2) (lane v 3) = v := by
  unfold ofLanes lane
  apply BitVec.eq_of_getLsbD_eq
  intro k hk
  simp only [BitVec.getLsbD_append, BitVec.getLsbD_extractLsb']
  by_cases h1 : k < 8
  · simp [h1]
  · by_cases h2 : k < 16
    · simp [h1, show k - 8 < 8 by omega, show 8 + (k - 8) = k by omega]
    · by_cases h3 : k < 24
      · simp [h1, show ¬k - 8 < 8 by omega, show k - 8 - 8 < 8 by omega, show 16 + (k - 8 - 8) = k by omega]
      · simp [h1, show ¬k - 8 < 8 by omega, show ¬k - 8 - 8 < 8 by omega, show k - 8 - 8 - 8 < 8 by omega,
          show 24 + (k - 8 - 8 - 8) = k by omega]

/-- A whole vector's bytes are taken back as that vector. -/
theorem takeBytes_append {n : Nat} (v : Vector Byte n) (rest : List Byte) :
    takeBytes n (v.toList ++ rest) = some (v, rest) := by
  have h : n ≤ (v.toList ++ rest).length := by simp
  unfold takeBytes
  rw [dif_pos h]
  have h1 : (v.toList ++ rest).drop n = rest := by
    rw [List.drop_append_of_le_length (by simp)]; simp
  have h2 : (v.toList ++ rest).take n = v.toList := by
    rw [List.take_append_of_le_length (by simp)]; simp
  simp only [h1, Option.some.injEq, Prod.mk.injEq, and_true]
  apply Vector.toArray_inj.1
  simp only [h2]
  exact Array.toArray_toList

/-- The AES agent finds the instruction of the message in the request register (R89, R90). -/
theorem instrOf_aes (p : Params) (s : State) (q : AesReq) (h : s.aesReq = some q) :
    instrOf p .aes s =
      some (match q with
        | .setKey kl key => .aesSetkey kl key
        | .encrypt blk => .aesEncrypt blk) := by
  unfold instrOf
  simp only [h]
  cases q with
  | setKey kl key =>
    have h1 : (kl.setWidth 8).extractLsb' 6 2 = 0#2 := by
      apply BitVec.eq_of_getLsbD_eq; intro i hi; simp [hi]
    have h2 : (kl.setWidth 8).extractLsb' 0 6 = kl := by
      apply BitVec.eq_of_getLsbD_eq; intro i hi; simp [hi]; omega
    have h3 := takeBytes_append key []
    rw [List.append_nil] at h3
    simp [reqBytes, decode, decodeAesReq, decodeSetkey, h1, h2, h3, decodedInstr]
  | encrypt blk =>
    have h3 := takeBytes_append blk []
    rw [List.append_nil] at h3
    simp [reqBytes, decode, decodeAesReq, decodeEncrypt, h3, decodedInstr]

/-- What each kind of step is, for a case split over all steps: the Engine's, the AES agent's, the Arbiter's, the Host's read,
a command, another write, or a reset. -/
theorem step_cases (s : State) (e : Event) :
    e = .engine ∨
    (e = .aes ∧ ((s.aesReq = none ∧ step (s.sched e) = .next s) ∨
      (∃ kl key, s.aesReq = some (.setKey kl key) ∧ step (s.sched e) = .next (setKeyStep Config.params kl key s)) ∨
      (∃ blk, s.aesReq = some (.encrypt blk) ∧ step (s.sched e) = .next (encryptStep Config.params blk s)))) ∨
    (e = .arbiter ∧ step (s.sched e) = .next (arbiterStep s)) ∨
    (∃ a width, e = .hostRead a width ∧ step (s.sched e) = .next (hostRead Config.params a width s)) ∨
    (∃ a width v, e = .hostWrite a width v ∧ access Config.params a width = none ∧
      step (s.sched e) = .next { s with refused := true }) ∨
    (∃ a width v, e = .hostWrite a width v ∧ access Config.params a width = some .cmd ∧
      step (s.sched e) = exec (decodeCmd v) s) ∨
    (∃ a width v t, e = .hostWrite a width v ∧ access Config.params a width = some t ∧ t ≠ .cmd ∧
      step (s.sched e) = .next (writeTarget v s t)) ∨
    (e = .reset ∧ step (s.sched e) = .next (resetStep s)) := by
  cases e with
  | engine => exact .inl rfl
  | aes =>
    refine .inr (.inl ⟨rfl, ?_⟩)
    cases h : s.aesReq with
    | none => exact .inl ⟨rfl, by simp [step_sched, instrOf, h, plainStep]⟩
    | some q =>
      have hq := instrOf_aes Config.params s q h
      cases q with
      | setKey kl key => exact .inr (.inl ⟨kl, key, rfl, by rw [step_sched, hq]; rfl⟩)
      | encrypt blk => exact .inr (.inr ⟨blk, rfl, by rw [step_sched, hq]; rfl⟩)
  | arbiter => exact .inr (.inr (.inl ⟨rfl, rfl⟩))
  | hostRead a width => exact .inr (.inr (.inr (.inl ⟨a, width, rfl, rfl⟩)))
  | hostWrite a width v =>
    cases h : access Config.params a width with
    | none =>
      exact .inr (.inr (.inr (.inr (.inl ⟨a, width, v, rfl, h, by
        simp [step_sched, instrOf, h, plainStep, hostWrite, State.refuse]⟩))))
    | some t =>
      by_cases ht : t = .cmd
      · subst ht
        refine .inr (.inr (.inr (.inr (.inr (.inl ⟨a, width, v, rfl, h, ?_⟩)))))
        have hw := ofLanes_lanes v
        simp [step_sched, instrOf, h, wordBytes, decode, decodedInstr, hw]
      · refine .inr (.inr (.inr (.inr (.inr (.inr (.inl ⟨a, width, v, t, rfl, h, ht, ?_⟩))))))
        cases t <;> simp_all [step_sched, instrOf, plainStep, hostWrite]
  | reset => exact .inr (.inr (.inr (.inr (.inr (.inr (.inr ⟨rfl, rfl⟩))))))

/-- The command a CMD word decodes to, as a case split (R81). -/
theorem exec_decodeCmd_cases (v : Word) (s : State) :
    (v = 0 ∧ exec (decodeCmd v) s = .next s) ∨
    (v = 1 ∧ exec (decodeCmd v) s = .next (wrapCommand Config.params s)) ∨
    (v ≠ 0 ∧ v ≠ 1 ∧ exec (decodeCmd v) s = .next (illegalCommand s)) := by
  by_cases h0 : v = 0
  · subst h0; exact .inl ⟨rfl, rfl⟩
  · by_cases h1 : v = 1
    · subst h1; exact .inr (.inl ⟨rfl, rfl⟩)
    · exact .inr (.inr ⟨h0, h1, by
        simp [decodeCmd, show ¬v = 0#32 from h0, show ¬v = 1#32 from h1, exec, execIllegalCmd]⟩)

/-- A write that selects CMD is the command of its data (R111). -/
theorem commandWord_write (p : Params) {a : BusAddr} {width : Nat} (v : Word) (h : access p a width = some .cmd) :
    commandWord p (.hostWrite a width v) = some v := if_pos h

/-- Everything a step of one scheduling choice can do to the state, branch by branch. What BUF becomes is left open but for
its canonical form. -/
inductive StepEffect (s : State) (e : Event) (t : State) : Prop
  | same (h : t = s)
  | acq (he : e = .engine) (h1 : s.st = .acq) (h : t = { s with aesReq := some (setKeyReq s), st := .setkey })
  | setkeyOk (he : e = .engine) (h1 : s.st = .setkey) (h : t = { s with aesResp := none, st := .init })
  | setkeyBad (he : e = .engine) (h1 : s.st = .setkey)
      (h : t = { s with aesResp := none, pend := .keySetupFail, st := .rel })
  | fault (r)
      (hu : r = .uninitBuf → e = .engine ∧ s.st = .form ∧ Memory.written s.buf (8 * s.i.toNat) 8 = false)
      (h : t = s.recordFault r)
  | init (he : e = .engine) (h1 : s.st = .init) (b) (hb : Memory.wf s.buf = true → Memory.wf b = true)
      (h : t = { s with buf := b, j := 0, i := 1, st := .form })
  | form (he : e = .engine) (h1 : s.st = .form) (b d q) (h : t = { s with b := b, draws := d, aesReq := q, st := .encwait })
  | encwait (he : e = .engine) (h1 : s.st = .encwait) (b) (h : t = { s with b := b, aesResp := none, st := .update })
  | update (he : e = .engine) (h1 : s.st = .update) (b j i x) (hx : x = .form ∨ x = .rel)
      (hb : Memory.wf s.buf = true → Memory.wf b = true)
      (h : t = { s with buf := b, j := j, i := i, st := x })
  | relOk (he : e = .engine) (h1 : s.st = .rel) (hp : s.pend = .none)
      (h : t = { s with st := .idle, gnt := false, done := true })
  | relBad (he : e = .engine) (h1 : s.st = .rel) (hp : s.pend ≠ .none)
      (h : t = { s with st := .idle, gnt := false, err := true, errCode := s.pend })
  | aes (q r k) (h : t = { s with aesReq := q, aesResp := r, aesKey := k })
  | arb (he : e = .arbiter) (h1 : s.st ≠ .idle) (h : t = { s with gnt := true })
  | host (d c r) (hr : s.refused = true → r = true) (h : t = { s with busData := d, draws := c, refused := r })
  | cmdRej (c) (hc : commandRejectedBy Config.params e s c)
      (h : t = { s with done := false, err := true, errCode := c })
  | cmdAcc (hi : s.st = .idle) (hv : commandWord Config.params e = some 0x00000001)
      (h : t = { s with done := false, err := false, errCode := .none, pend := .none, st := .acq })
  | hw (hi : s.st = .idle) (n kl k b) (hb : Memory.wf s.buf = true → Memory.wf b = true)
      (h : t = { s with n := n, kekLen := kl, kek := k, buf := b })
  | reset (he : e = .reset) (h : t = resetStep s)

/-- A step that answers a next state has one of the effects above. -/
theorem step_effect (s t : State) (e : Event) (h : step (s.sched e) = .next t) : StepEffect s e t := by
  rcases step_cases s e with rfl | ⟨rfl, ⟨hq, e2⟩ | ⟨kl, key, hq, e2⟩ | ⟨blk, hq, e2⟩⟩ | ⟨rfl, e2⟩ | ⟨a, w, rfl, e2⟩ |
    ⟨a, w, v, rfl, _, e2⟩ | ⟨a, w, v, rfl, ha, e2⟩ | ⟨a, w, v, tt, rfl, ha, hne, e2⟩ | ⟨rfl, e2⟩
  · rw [step_engine] at h
    cases hx : s.st <;> simp only [hx, exec] at h
    · cases h; exact .same rfl
    · cases h
      rcases acqStep_cases s with e | ⟨_,_,_,_,_,e⟩
      · exact .same e
      · exact .acq rfl hx e
    · cases h
      rcases setkeyStep_cases s with e | ⟨r,_,_,_,h'⟩
      · exact .same e
      · rcases h' with ⟨_, _, e⟩ | ⟨_,_,e⟩ | ⟨_, e⟩
        · exact .setkeyOk rfl hx e
        · exact .setkeyBad rfl hx e
        · exact .fault _ (by simp) e
    · cases h; rcases initStep_cases s with e | ⟨_,_,e⟩
      · exact .same e
      · exact .init rfl hx _ (fun hw => Memory.writeBytes_wf _ _ _ hw) e
    · have h : formStep Config.params s = .next t := h
      rcases formStep_cases Config.params s with e | ⟨_,_,_,_,⟨_,e⟩|⟨_,hw,e⟩|⟨_,_,e⟩⟩ <;> rw [e] at h <;> cases h
      · exact .same rfl
      · exact .fault _ (fun _ => ⟨rfl, hx, hw⟩) rfl
      · exact .form rfl hx _ _ _ rfl
    · cases h
      rcases encwaitStep_cases s with e | ⟨r,_,_,_,⟨_,e⟩|⟨_,e⟩⟩
      · exact .same e
      · exact .encwait rfl hx _ e
      · exact .fault _ (by simp) e
    · have h : updateStep Config.params s = .next t := h
      rcases updateStep_cases Config.params s with e | ⟨_,_,⟨_,e⟩|⟨_,e⟩⟩ <;> rw [e] at h <;> cases h
      · exact .same rfl
      · refine .update rfl hx _ _ _ _ ?_ (fun hw => ?_) rfl
        · rcases advance_cases s.j s.i s.n with ⟨_, e⟩ | ⟨_,_,e⟩ | ⟨_,_,e⟩ <;> rw [e] <;> simp
        · exact Memory.writeBytes_wf _ _ _ (Memory.writeBytes_wf _ _ _ hw)
    · cases h; rcases relStep_cases s with e | ⟨_,_,⟨hp,e⟩|⟨hp,e⟩⟩
      · exact .same e
      · exact .relOk rfl hx hp e
      · exact .relBad rfl hx hp e
  all_goals rw [e2] at h
  · cases h; exact .same rfl
  · cases h
    rcases setKeyStep_cases Config.params kl key s with ⟨_, e⟩ | ⟨h1,h2,h3,e⟩
    · exact .same e
    · exact .aes _ _ _ e
  · cases h
    rcases encryptStep_cases Config.params blk s with ⟨_, e⟩ | ⟨h1,h2,h3,_,e⟩ | ⟨kl', k', h1,h2,h3,_,e⟩
    · exact .same e
    · exact .fault _ (by simp) e
    · exact .aes _ _ _ e
  · cases h; rcases arbiterStep_cases s with e | ⟨h1,_,e⟩
    · exact .same e
    · exact .arb rfl h1 e
  · cases h; rcases hostRead_cases Config.params a w s with ⟨_, e3⟩ | ⟨x, _, e3⟩
    · exact .host _ _ _ (fun _ => rfl) e3
    · exact .host _ _ _ id e3
  · cases h; exact .host _ _ _ (fun _ => rfl) rfl
  · have hv := commandWord_write Config.params v ha
    rcases exec_decodeCmd_cases v s with ⟨_, e3⟩ | ⟨h1, e3⟩ | ⟨h0, h1, e3⟩ <;> rw [e3] at h <;> cases h
    · exact .same rfl
    · subst h1
      rcases wrapCommand_cases Config.params s with ⟨h, e⟩ | ⟨h, hn, e⟩ | ⟨h, hn, hm, hk, e⟩ | ⟨h, _, _, _, e⟩
      · exact .same e
      · exact .cmdRej _ ⟨h, _, hv, .inl ⟨rfl, hn, rfl⟩⟩ e
      · exact .cmdRej _ ⟨h, _, hv, .inr (.inl ⟨rfl, hn, hm, hk, rfl⟩)⟩ e
      · exact .cmdAcc h hv e
    · rcases illegalCommand_cases s with ⟨_, e⟩ | ⟨h, e⟩
      · exact .same e
      · exact .cmdRej _ ⟨h, _, hv, .inr (.inr ⟨h0, h1, rfl⟩)⟩ e
  · cases h
    rcases writeTarget_cases v s tt with e | ⟨hi, ⟨_,e⟩|⟨_,e⟩|⟨k,_,e⟩|⟨w,_,e⟩⟩
    · exact .same e
    · exact .hw hi _ _ _ _ id e
    · exact .hw hi _ _ _ _ id e
    · exact .hw hi _ _ _ _ id e
    · exact .hw hi _ _ _ _ (fun hw => Memory.writeBytes_wf _ _ _ hw) e
  · cases h; exact .reset rfl rfl

end Sys2Proof.Machine
end

