-- ==== Sys2Proof/Tests/Slice0.lean ====
section
/-! SUPPORT. Tests: the WellFormed smoke tests, words written out from the spec's encodings, one-step tests whose expected values are
those of spec/95_test_vectors.md (and the examples of the rules), and the witnesses that the statements' hypotheses can be
met. -/

namespace Sys2Proof.Tests

open Sys2Proof Sys2Proof.Machine

/-! ## WellFormed: one ill-formed term for each check -/

theorem test_wf_illegal_nop_word : Instr.wellFormed (.illegalCmd 0x00000000) = false := by decide
theorem test_wf_illegal_wrap_word : Instr.wellFormed (.illegalCmd 0x00000001) = false := by decide
theorem test_wf_klen_above_32 : Instr.wellFormed (.aesSetkey 33 (vec 32 fun _ => 0)) = false := by decide
theorem test_wf_padding_not_zero : Instr.wellFormed (.aesSetkey 16 (vec 32 fun m => if m = 16 then 1 else 0)) = false := by
  decide

/-! ## Decoding: a word written out for every row (R81, R88 to R90; spec/95_test_vectors.md H22 to H24, S-K1, S-E1) -/

theorem test_decode_nop : decode .cmd [0x00, 0x00, 0x00, 0x00] = .ok (.nop, []) := by decide
theorem test_decode_wrap : decode .cmd [0x01, 0x00, 0x00, 0x00, 0xFF] = .ok (.wrap, [0xFF]) := by decide
theorem test_decode_illegal : decode .cmd [0x01, 0x00, 0x00, 0x80] = .ok (.illegalCmd 0x80000001, []) := by decide
theorem test_decode_setkey :
    decode .aesReq ([0b00000000, 0b00000100] ++ [0x00, 0x01, 0x02, 0x03] ++ List.replicate 28 0x00) =
      .ok (.aesSetkey 4 (vec 32 fun m => if m < 4 then BitVec.ofNat 8 m else 0), []) := by decide
theorem test_decode_encrypt :
    decode .aesReq ([0b00000001] ++ List.replicate 8 0xA6 ++ [0x00, 0x11, 0x22, 0x33, 0x44, 0x55, 0x66, 0x77]) =
      .ok (.aesEncrypt #v[0xA6, 0xA6, 0xA6, 0xA6, 0xA6, 0xA6, 0xA6, 0xA6,
        0x00, 0x11, 0x22, 0x33, 0x44, 0x55, 0x66, 0x77], []) := by decide
theorem test_decode_states :
    [0x00, 0x01, 0x02, 0x03, 0x04, 0x05, 0x06, 0x07].map (fun c : Byte => decodedInstr (decode .fsmState [c])) =
      [some .fsmIdle, some .fsmAcq, some .fsmSetkey, some .fsmInit, some .fsmForm, some .fsmEncwait, some .fsmUpdate,
        some .fsmRel] := by decide
theorem test_decode_rejects :
    decode .fsmState [0x08] = .error .reservedState ∧ decode .fsmState [0x10] = .error .stateBits ∧
    decode .aesReq [0x02] = .error .reservedRop ∧ decode .aesReq [0x05] = .error .reservedMode ∧
    decode .aesReq [0x08] = .error .headerBits ∧ decode .aesReq [0x00, 0x40] = .error .klenBits ∧
    decode .cmd [0x00, 0x00, 0x00] = .error .short := by decide
theorem test_table_words :
    decodeTableWord 32 0x00000001 = some .wrap ∧ decodeTableWord 8 0x00 = some (.aesSetkey 0 (vec 32 fun _ => 0)) ∧
    decodeTableWord 8 0x01 = some (.aesEncrypt (vec 16 fun _ => 0)) ∧ decodeTableWord 4 0x0 = some .fsmIdle ∧
    decodeTableWord 4 0x7 = some .fsmRel ∧ decodeTableWord 8 0x07 = some .fsmRel := by decide

/-- The next state, where the outcome is one. -/
def nextOf (o : Outcome) : Option State :=
  match o with
  | .next s => some s
  | .fault _ => none
  | .refused _ => none

/-! ## Commands (spec/95_test_vectors.md H13 to H24, with N_MAX = 64) -/

/-- P_MIN_N = 1, N_MAX = 64, the SWAP cipher of spec/95_test_vectors.md and its example keyOk. -/
def stub : Params where
  pMinCode := 0
  nMaxCode := 64
  baseCode := 0x10000
  keyOk    := fun kl _ => kl == 16 || kl == 24 || kl == 32
  aesEnc   := fun _ _ x => joinSlots (loSlot x) (hiSlot x)

/-- An Engine at work in a controller state, under the grant. -/
def at_ (x : FsmState) : State := { State.reset with st := x, gnt := true, n := 2, kekLen := 16, j := 0, i := 1 }

theorem test_nop_keeps_status :
    (nextOf (exec .nop { State.reset with err := true, errCode := .keySetupFail })).map State.statusWord = some 0x00000014 := by
  decide
theorem test_wrap_accepted :
    (wrapCommand stub { State.reset with n := 64, kekLen := 32, err := true, errCode := .badKeklen }).statusWord =
      0x00000101 := by decide
theorem test_wrap_rejected :
    (wrapCommand stub { State.reset with n := 0, kekLen := 40 }).statusWord = 0x00000024 ∧
    (wrapCommand stub { State.reset with n := 65 }).statusWord = 0x00000024 ∧
    (wrapCommand stub { State.reset with n := 2, kekLen := 33 }).statusWord = 0x00000034 := by decide
theorem test_illegal_command :
    (nextOf (exec (.illegalCmd 0x00000011) { State.reset with done := true })).map State.statusWord = some 0x00000044 ∧
    (nextOf (exec (.illegalCmd 0x00000002) (at_ .form))).map State.statusWord = some 0x00000401 := by decide

/-! ## The AES port (spec/95_test_vectors.md S-K1 to S-K5, S-E3) -/

theorem test_setkey_answers :
    (setKeyStep stub 20 (vec 32 fun m => if m < 20 then BitVec.ofNat 8 m else 0)
      { at_ .setkey with
        aesReq := some (.setKey 20 (vec 32 fun m => if m < 20 then BitVec.ofNat 8 m else 0)) }).aesResp.map AesResp.header =
      some 0x00 ∧
    (setKeyStep stub 16 (vec 32 fun _ => 0)
      { at_ .setkey with aesReq := some (.setKey 16 (vec 32 fun _ => 0)) }).aesKey = some (16, List.replicate 16 0) := by
  decide
theorem test_setkey_request :
    setKeyReq { State.reset with
        kekLen := 4, kek := #v[0x03020100, 0x13121110, 0, 0, 0, 0, 0, 0] } =
      .setKey 4 (vec 32 fun m => if m < 4 then BitVec.ofNat 8 m else 0) := by decide
theorem test_encrypt_answers :
    (encryptStep stub (vec 16 fun m => BitVec.ofNat 8 m)
      { at_ .encwait with
        aesReq := some (.encrypt (vec 16 fun m => BitVec.ofNat 8 m)), aesKey := some (16, []) }).aesResp =
      some ⟨.encrypt, true, #v[8, 9, 10, 11, 12, 13, 14, 15, 0, 1, 2, 3, 4, 5, 6, 7]⟩ := by decide

/-! ## The controller (spec/95_test_vectors.md E1, E5, E8, Q4, Q8, I1, F1, U3, W1, T1 to T13, A1 to A6) -/

theorem test_idle : (nextOf (exec .fsmIdle State.reset)) = some State.reset := by decide
theorem test_acq :
    (nextOf (exec .fsmAcq (at_ .acq))).map State.statusWord = some 0x00000201 ∧
    (nextOf (exec .fsmAcq { at_ .acq with gnt := false })).map State.statusWord = some 0x00000101 := by decide
theorem test_setkey :
    (nextOf (exec .fsmSetkey { at_ .setkey with aesResp := some ⟨.setKey, false, vec 16 fun _ => 0⟩ })).map
      (fun t => (t.st, t.pend)) = some (.rel, .keySetupFail) ∧
    (nextOf (exec .fsmSetkey { at_ .setkey with aesResp := some ⟨.setKey, true, vec 16 fun _ => 0⟩ })).map State.st =
      some .init := by decide
theorem test_init :
    (nextOf (exec .fsmInit { at_ .init with buf := Memory.writeBytes [] 0 (List.replicate 9 0xFF) })).map
      (fun t => (t.buf.map Prod.snd, t.st, t.j, t.i)) =
      some (List.replicate 8 0xA6 ++ [0xFF], .form, 0, 1) := by decide
theorem test_form :
    (nextOf (formStep stub { at_ .form with
      buf := Memory.writeBytes [] 0 (List.replicate 8 0xA6 ++ [0x00, 0x11, 0x22, 0x33, 0x44, 0x55, 0x66, 0x77]) })).map
        (fun t => (t.st, t.aesReq)) =
      some (.encwait, some (.encrypt #v[0xA6, 0xA6, 0xA6, 0xA6, 0xA6, 0xA6, 0xA6, 0xA6,
        0x00, 0x11, 0x22, 0x33, 0x44, 0x55, 0x66, 0x77])) := by decide
theorem test_form_unwritten :
    (nextOf (formStep stub { at_ .form with i := 2, buf := Memory.writeBytes [] 0 (List.replicate 23 0xA6) })).map
      (fun t => (t.statusWord, t.faults.mem .uninitBuf)) = some (0x00000401, true) := by decide
theorem test_encwait :
    (nextOf (exec .fsmEncwait { at_ .encwait with aesResp := some ⟨.encrypt, false, vec 16 fun m => BitVec.ofNat 8 m⟩ })).map
      (fun t => (t.st, t.b)) = some (.update, vec 16 fun m => BitVec.ofNat 8 m) := by decide
theorem test_update :
    (nextOf (updateStep stub { at_ .update with
      n := 43, j := 5, i := 43, b := vec 16 fun m => if m < 8 then 0xA6 else BitVec.ofNat 8 m })).map
        (fun t => (t.buf, t.st, t.j, t.i)) =
      some ([(0, 0xA6), (1, 0xA6), (2, 0xA6), (3, 0xA6), (4, 0xA6), (5, 0xA6), (6, 0xA7), (7, 0xA4),
        (344, 8), (345, 9), (346, 10), (347, 11), (348, 12), (349, 13), (350, 14), (351, 15)], .rel, 5, 43) := by decide
theorem test_counter_and_advance :
    counter 8 5 8 = 48 ∧ counter 43 5 43 = 0x00000102 ∧ counter 715827882 5 715827882 = 0xFFFFFFFC ∧
    advance 0 1 2 = (0, 2, .form) ∧ advance 0 2 2 = (1, 1, .form) ∧ advance 5 2 2 = (5, 2, .rel) ∧
    advance 3 1 1 = (4, 1, .form) := by decide
theorem test_rel :
    (nextOf (exec .fsmRel (at_ .rel))).map (fun t => (t.statusWord, t.gnt)) = some (0x00000002, false) ∧
    (nextOf (exec .fsmRel { at_ .rel with pend := .keySetupFail })).map (fun t => (t.statusWord, t.gnt)) =
      some (0x00000014, false) := by decide

/-! ## The Host's accesses (spec/95_test_vectors.md H1 to H29, R-1, R-3, R-4; the examples of R110 to R127) -/

theorem test_host_reads :
    (hostRead stub (.reg 0x004) 4 State.reset).busData = some 0x00000000 ∧
    (hostRead stub (.reg 0x004) 4 { State.reset with done := true }).busData = some 0x00000002 ∧
    (hostRead stub (.reg 0x00C) 4 (hostWrite stub (.reg 0x00C) 4 0xFFFFFFD0 State.reset)).busData = some 0x00000010 ∧
    (hostRead stub (.reg 0x020) 4 (hostWrite stub (.reg 0x020) 4 0x03020100 State.reset)).busData = some 0x00000000 ∧
    (hostRead stub (.bus 0x40008) 4 (at_ .acq)).busData = some 0x00000002 ∧
    (hostRead stub (.reg 0x0FC) 4 State.reset).busData = some 0x00000000 := by decide
theorem test_host_writes_lanes :
    (hostWrite stub (.reg 0x108) 4 0x33221100 State.reset).buf = [(8, 0x00), (9, 0x11), (10, 0x22), (11, 0x33)] ∧
    (hostRead stub (.reg 0x108) 4 (hostWrite stub (.reg 0x108) 4 0x33221100 State.reset)).busData = some 0x33221100 ∧
    (hostWrite stub (.reg 0x108) 4 0x33221100 (at_ .acq)).buf = [] ∧
    (hostRead stub (.reg 0x108) 4 { at_ .form with buf := [(8, 1), (9, 1), (10, 1), (11, 1)] }).busData = some 0 := by decide
theorem test_host_refusals :
    (hostRead stub (.reg 0x004) 2 State.reset).refused = true ∧ (hostRead stub (.reg 0x006) 4 State.reset).refused = true ∧
    (hostWrite stub (.reg 0x308) 4 0 State.reset).refused = true ∧
    (hostWrite stub (.reg 0x304) 4 0 State.reset).refused = false ∧
    (hostRead stub (.bus 0x3FFFC) 4 State.reset).busData = none := by decide
theorem test_reset_while_busy :
    (resetStep { at_ .encwait with aesKey := some (16, []), buf := [(0, 0xA6)], faults := { uninitBuf := true } }).statusWord =
      0x00000000 ∧
    (resetStep { at_ .encwait with aesKey := some (16, []), buf := [(0, 0xA6)], faults := { uninitBuf := true } }) =
      { State.reset with faults := { uninitBuf := true } } := by decide

/-! ## Witnesses: states and operands that meet the statements' hypotheses

The parameters are opaque, so the states below are built from them: N at P_MIN_N and at N_MAX, and slots 0 to N filled. -/

/-- N at its least and at its greatest legal value. -/
def nLeast : Word := BitVec.ofNat 32 Config.params.pMinN
def nMost : Word := BitVec.ofNat 32 Config.params.nMax

theorem nLeast_toNat : nLeast.toNat = Config.params.pMinN := by
  have := Config.params.pMinN_values
  simp only [nLeast, BitVec.toNat_ofNat]
  omega

theorem nMost_toNat : nMost.toNat = Config.params.nMax := by
  have := Config.params.nMax_le
  simp only [nMost, BitVec.toNat_ofNat]
  omega

/-- Slot 0 and slots 1 to n filled. -/
def fill (x : Slot × (Nat → Slot)) : Nat → Memory
  | 0 => Memory.writeBytes [] (8 * 0) x.1.toList
  | n + 1 => Memory.writeBytes (fill x n) (8 * (n + 1)) (x.2 (n + 1)).toList

theorem fill_slot (x : Slot × (Nat → Slot)) (n k : Nat) (hk : k ≤ n) :
    Memory.slot (fill x n) k = some (if k = 0 then x.1 else x.2 k) := by
  induction n with
  | zero =>
    obtain rfl : k = 0 := by omega
    exact Memory.slot_writeSlot_same _ _ _
  | succ n ih =>
    by_cases h : k = n + 1
    · subst h; simpa [fill] using Memory.slot_writeSlot_same (fill x n) (n + 1) (x.2 (n + 1))
    · simpa [fill, Memory.slot_writeSlot_other (fill x n) (x.2 (n + 1)) h] using ih (by omega)

theorem fill_wf (x : Slot × (Nat → Slot)) (n : Nat) : Memory.wf (fill x n) = true := by
  induction n with
  | zero => exact Memory.writeBytes_wf _ _ _ rfl
  | succ n ih => exact Memory.writeBytes_wf _ _ _ ih

theorem fill_extent (x : Slot × (Nat → Slot)) (n a : Nat) (ha : 8 * (n + 1) ≤ a) : Memory.read (fill x n) a = none := by
  induction n with
  | zero => rw [fill, Memory.read_writeBytes_other _ _ (by simp; omega)]; rfl
  | succ n ih => rw [fill, Memory.read_writeBytes_other _ _ (by simp; omega)]; exact ih (by omega)

theorem fill_holds (x : Slot × (Nat → Slot)) (n : Nat) : bufHolds (fill x n) n x :=
  ⟨fill_slot x n 0 (by omega), fun k h1 hk => by simpa [show k ≠ 0 by omega] using fill_slot x n k hk⟩

/-- A plaintext. -/
def plain (k : Nat) : Slot := vec 8 fun b => BitVec.ofNat 8 (8 * k + b)

/-- The buffer with the plaintext loaded, up to the greatest slot. -/
def loaded : Memory := fill (aInit, plain) Config.params.nMax

theorem loaded_slot (k : Nat) (h1 : 1 ≤ k) (hk : k ≤ Config.params.nMax) : Memory.slot loaded k = some (plain k) := by
  unfold loaded
  simpa [show k ≠ 0 by omega] using fill_slot (aInit, plain) _ k hk

theorem loaded_extent (a : Nat) (h : (Memory.read loaded a).isSome = true) : a < Config.params.bufBytes := by
  by_contra hc
  rw [loaded, fill_extent _ _ _ (by simpa [Params.bufBytes] using hc)] at h
  cases h

/-- An operation at its greatest N, in a controller state, over the loaded buffer. -/
def busyAt (x : FsmState) : State :=
  { State.reset with st := x, n := nMost, kekLen := 32, gnt := true, j := 0, i := 1, buf := loaded }

/-- The last word of BUF. -/
def lastWord : Nat := 2 * Config.params.nMax + 1

theorem witness_words_of_the_buffer : 4 * 0 < Config.params.bufBytes ∧ 4 * lastWord < Config.params.bufBytes ∧
    0x100 + 4 * lastWord < Config.params.windowBytes ∧ (0x100 + 4 * lastWord) % 4 = 0 := by
  simp only [Params.windowBytes, Params.bufBytes, lastWord]
  omega

theorem loaded_written (k b : Nat) (hk : k ≤ Config.params.nMax) (hb : b < 8) :
    ∃ v, Memory.read loaded (8 * k + b) = some v := by
  have h := (Memory.slot_eq_some_iff loaded k _).1 (fill_slot (aInit, plain) _ k hk) b hb
  exact ⟨_, h⟩

/-! ### Encodings and steps -/

theorem witness_DecodeEncodeAgree : Instr.wellFormed (.illegalCmd 0x00000002) = true ∧
    Instr.wellFormed (.illegalCmd 0xFFFFFFFF) = true ∧ Instr.wellFormed (.aesSetkey 0 (vec 32 fun _ => 0)) = true ∧
    Instr.wellFormed (.aesSetkey 32 (vec 32 fun m => BitVec.ofNat 8 (m + 1))) = true ∧
    Instr.wellFormed (.aesEncrypt (vec 16 fun m => BitVec.ofNat 8 m)) = true ∧ Instr.wellFormed .fsmRel = true := by decide

theorem witness_CmdWordReadWhole : (0x00000002 : Word) ≠ 0x00000000 ∧ (0x00000002 : Word) ≠ 0x00000001 ∧
    (0xFFFFFFFF : Word) ≠ 0x00000000 ∧ (0xFFFFFFFF : Word) ≠ 0x00000001 := by decide

theorem witness_ReservedCodesRejected : 8 ≤ (0x08 : Byte).toNat ∧ 8 ≤ (0xFF : Byte).toNat ∧ 2 ≤ (0x02 : Byte).toNat ∧
    2 ≤ (0xFF : Byte).toNat := by decide

theorem witness_StepRunsTheDecodedInstruction :
    decode .cmd (wordBytes 0x00000001) = .ok (.wrap, []) ∧
    decode .fsmState [(at_ .form).st.code.setWidth 8] = .ok (.fsmForm, []) ∧
    decode .aesReq (reqBytes (.encrypt (vec 16 fun _ => 0))) = .ok (.aesEncrypt (vec 16 fun _ => 0), []) ∧
    State.reset.agenda = [] := by decide

/-! ### The Host's accesses -/

theorem witness_HostReadsRegisters : (0x010 % 4 = 0 ∧ 0x010 ≤ 0x010 ∧ 0x010 < 0x020) ∧
    (0x01C % 4 = 0 ∧ 0x010 ≤ 0x01C ∧ 0x01C < 0x020) ∧ (0x040 % 4 = 0 ∧ 0x040 ≤ 0x040 ∧ 0x040 < 0x100) ∧
    (0x0FC % 4 = 0 ∧ 0x040 ≤ 0x0FC ∧ 0x0FC < 0x100) := by decide

theorem witness_HostReadsWrittenBufWord (w : Nat) (hw : w = 0 ∨ w = lastWord) :
    ∃ s : State, s.st = .idle ∧ 4 * w < Config.params.bufBytes ∧ ∃ v0 v1 v2 v3,
      Memory.read s.buf (4 * w) = some v0 ∧ Memory.read s.buf (4 * w + 1) = some v1 ∧
      Memory.read s.buf (4 * w + 2) = some v2 ∧ Memory.read s.buf (4 * w + 3) = some v3 := by
  refine ⟨{ State.reset with buf := loaded }, rfl, ?_, ?_⟩
  · rcases hw with rfl | rfl <;> simp only [Params.bufBytes, lastWord] <;> omega
  · have hr : ∀ b, b < 4 → ∃ v, Memory.read loaded (4 * w + b) = some v := by
      intro b hb
      rcases hw with rfl | rfl
      · simpa using loaded_written 0 b (by omega) (by omega)
      · simpa [lastWord, show 4 * (2 * Config.params.nMax + 1) + b = 8 * Config.params.nMax + (4 + b) by omega] using
          loaded_written Config.params.nMax (4 + b) le_rfl (by omega)
    obtain ⟨v0, h0⟩ := hr 0 (by omega)
    obtain ⟨v1, h1⟩ := hr 1 (by omega)
    obtain ⟨v2, h2⟩ := hr 2 (by omega)
    obtain ⟨v3, h3⟩ := hr 3 (by omega)
    exact ⟨v0, v1, v2, v3, h0, h1, h2, h3⟩

theorem witness_HostReadsDrawsForUnwrittenBytes : State.reset.st = .idle ∧
    (∃ b, b < 4 ∧ Memory.read State.reset.buf (4 * 0 + b) = none) ∧
    ∃ b, b < 4 ∧ Memory.read State.reset.buf (4 * lastWord + b) = none :=
  ⟨rfl, ⟨0, by omega, rfl⟩, 3, by omega, rfl⟩

theorem witness_BusyEngineOwnsTheInputs : (busyAt .acq).st ≠ .idle ∧ 0x0FC < Config.params.windowBytes := by
  refine ⟨by decide, ?_⟩
  simp only [Params.windowBytes]
  omega

theorem witness_HostWrites : State.reset.st = .idle := rfl

theorem witness_BufWordReadsBack : ∃ t, step (State.reset.sched (.hostWrite (.reg (0x100 + 4 * 0)) 4 0x33221100)) = .next t := by
  have h : access Config.params (.reg (0x100 + 4 * 0)) 4 = some (.buf 0) := by
    simp [access, busOffset, target, Params.windowBytes, Params.bufBytes]
  exact ⟨_, by simp only [step_sched, instrOf, h]; exact rfl⟩

theorem witness_UndefinedAccessesRefused : (2 ≠ 4 ∧ 0x006 % 4 ≠ 0) ∧
    Config.params.windowBytes ≤ Config.params.windowBytes := ⟨by decide, le_rfl⟩

theorem witness_BusAddressesAreOffsetsFromBase : Config.params.base ≤ Config.params.base := le_rfl

theorem witness_HostReadsDoNotRevealTheKek : ∃ t, step (State.reset.sched (.hostRead (.reg 0x020) 4)) = .next t := ⟨_, rfl⟩

/-! ### Commands -/

theorem witness_WrapChecksAndStarts_accepted (n : Word) (hn : n = nLeast ∨ n = nMost) (kl : BitVec 6) (hk : kl = 0 ∨ kl = 32) :
    ∃ s : State, s.st = .idle ∧ s.n = n ∧ s.kekLen = kl ∧ Config.params.pMinN ≤ s.n.toNat ∧
      s.n.toNat ≤ Config.params.nMax ∧ s.kekLen.toNat ≤ 32 := by
  have h := Config.params.pMinN_le_nMax
  refine ⟨{ State.reset with n := n, kekLen := kl }, rfl, rfl, rfl, ?_, ?_, ?_⟩
  · rcases hn with rfl | rfl <;> simp only [nLeast_toNat, nMost_toNat] <;> omega
  · rcases hn with rfl | rfl <;> simp only [nLeast_toNat, nMost_toNat] <;> omega
  · show kl.toNat ≤ 32
    rcases hk with rfl | rfl <;> decide

theorem witness_WrapChecksAndStarts_rejected : State.reset.st = .idle ∧ State.reset.n.toNat < Config.params.pMinN ∧
    Config.params.nMax < (nMost + 1).toNat ∧
    (∀ kl : BitVec 6, kl = 33 ∨ kl = 63 → Config.params.pMinN ≤ nLeast.toNat ∧ nLeast.toNat ≤ Config.params.nMax ∧
      32 < kl.toNat) := by
  have h := Config.params.pMinN_le_nMax
  have h1 := Config.params.pMinN_values
  have h2 := Config.params.nMax_le
  refine ⟨rfl, ?_, ?_, ?_⟩
  · show 0 < _
    omega
  · rw [BitVec.toNat_add, nMost_toNat]
    simp
    omega
  · intro kl hk
    refine ⟨nLeast_toNat.ge, nLeast_toNat.trans_le h, ?_⟩
    rcases hk with rfl | rfl <;> decide

theorem witness_CommandFrame : (∃ t, exec (decodeCmd 0x00000000) State.reset = .next t) ∧
    (∃ t, exec (decodeCmd 0x00000001) State.reset = .next t) ∧ ∃ t, exec (decodeCmd 0x00000002) State.reset = .next t :=
  ⟨⟨_, rfl⟩, ⟨_, rfl⟩, ⟨_, rfl⟩⟩

/-! ### The AES port -/

theorem witness_SetKeyAnswered : ∃ (s : State) (kl : BitVec 6) (key : KeyField), s.faults.isEmpty = true ∧
    s.aesReq = some (.setKey kl key) ∧ s.aesResp = none :=
  ⟨{ busyAt .setkey with aesReq := some (.setKey 32 (vec 32 fun _ => 0)) }, _, _, rfl, rfl, rfl⟩

theorem witness_EncryptAnswered : ∃ (s t : State) (blk : Block), s.faults.isEmpty = true ∧
    s.aesReq = some (.encrypt blk) ∧ s.aesResp = none ∧ (∃ kl k, s.aesKey = some (kl, k)) ∧
    t.faults.isEmpty = true ∧ t.aesReq = some (.encrypt blk) ∧ t.aesResp = none ∧ t.aesKey = none :=
  ⟨{ busyAt .encwait with aesReq := some (.encrypt (vec 16 fun _ => 0)), aesKey := some (16, List.replicate 16 0) },
    { busyAt .encwait with aesReq := some (.encrypt (vec 16 fun _ => 0)) }, _, rfl, rfl, rfl, ⟨_, _, rfl⟩, rfl, rfl, rfl, rfl⟩

theorem witness_HeldAgentsChangeNothing :
    ({ State.reset with faults := { uninitBuf := true } } : State).faults.isEmpty = false ∧
    ({ busyAt .acq with gnt := false }.st = .acq ∧ { busyAt .acq with gnt := false }.gnt = false) ∧
    ((busyAt .setkey).st = .setkey ∧ (busyAt .setkey).aesResp = none) ∧
    ({ busyAt .form with aesReq := some (.encrypt (vec 16 fun _ => 0)) }.aesReq ≠ none) ∧
    ¬(State.reset.faults.isEmpty = true ∧ State.reset.aesReq = some (.setKey 0 (vec 32 fun _ => 0)) ∧
      State.reset.aesResp = none) ∧
    ¬(State.reset.faults.isEmpty = true ∧ State.reset.aesReq = some (.encrypt (vec 16 fun _ => 0)) ∧
      State.reset.aesResp = none) :=
  ⟨rfl, ⟨rfl, rfl⟩, ⟨rfl, rfl⟩, by simp, by decide, by decide⟩

theorem witness_AesFrame : (∃ t, exec (.aesSetkey 0 (vec 32 fun _ => 0)) State.reset = .next t) ∧
    ∃ t, exec (.aesEncrypt (vec 16 fun _ => 0)) State.reset = .next t := ⟨⟨_, rfl⟩, ⟨_, rfl⟩⟩

theorem witness_SetKeyRequestCarriesTheKek : (0 < (32 : BitVec 6).toNat ∧ 31 < (32 : BitVec 6).toNat) ∧
    (1 : BitVec 6).toNat ≤ 1 ∧ (0 : BitVec 6).toNat ≤ 0 ∧ (32 : BitVec 6).toNat ≤ 32 := by decide

/-! ### The controller -/

theorem witness_AcqIssuesTheKeySetup : (busyAt .acq).faults.isEmpty = true ∧ (busyAt .acq).st = .acq ∧
    (busyAt .acq).gnt = true ∧ (busyAt .acq).aesReq = none ∧ (busyAt .acq).aesResp = none := ⟨rfl, rfl, rfl, rfl, rfl⟩

theorem witness_responses (rop : Rop) (ok : Bool) (x : FsmState) : ∃ (s : State) (r : AesResp),
    s.faults.isEmpty = true ∧ s.st = x ∧ s.aesResp = some r ∧ r.rop = rop ∧ r.ok = ok :=
  ⟨{ busyAt x with aesResp := some ⟨rop, ok, vec 16 fun _ => 0⟩ }, _, rfl, rfl, rfl, rfl, rfl⟩

theorem witness_InitStartsTheLoop : (busyAt .init).faults.isEmpty = true ∧ (busyAt .init).st = .init := ⟨rfl, rfl⟩

theorem witness_FormIssuesTheEncryption (i : Word) (hi : i = 1 ∨ i = nMost) :
    ∃ s : State, s.i = i ∧ s.faults.isEmpty = true ∧ s.st = .form ∧ s.aesReq = none ∧ s.aesResp = none ∧
      s.i.toNat ≤ Config.params.nMax ∧ (∃ a, Memory.slot s.buf 0 = some a) ∧ ∃ r, Memory.slot s.buf s.i.toNat = some r := by
  have h1 := Config.params.one_le_nMax
  have hn : i.toNat ≤ Config.params.nMax := by
    rcases hi with rfl | rfl
    · simpa using h1
    · exact nMost_toNat.le
  exact ⟨{ busyAt .form with i := i }, rfl, rfl, rfl, rfl, rfl, hn, ⟨_, fill_slot _ _ _ (by omega)⟩, _, fill_slot _ _ _ hn⟩

theorem witness_FormRecordsAnUnwrittenByte : ∃ s : State, s.faults.isEmpty = true ∧ s.st = .form ∧ s.aesReq = none ∧
    s.aesResp = none ∧ s.i.toNat ≤ Config.params.nMax ∧ ∃ b, b < 8 ∧ Memory.read s.buf (8 * s.i.toNat + b) = none :=
  ⟨{ busyAt .form with buf := [] }, rfl, rfl, rfl, rfl, Config.params.one_le_nMax, 7, by omega, rfl⟩

theorem witness_StopsOutsideTheBuffer (x : FsmState) : ∃ s : State,
    s.faults.isEmpty = true ∧ Config.params.nMax < s.i.toNat ∧ s.st = x ∧ s.aesReq = none ∧ s.aesResp = none := by
  have h := witness_WrapChecksAndStarts_rejected.2.2.1
  exact ⟨{ busyAt x with i := nMost + 1 }, rfl, h, rfl, rfl, rfl⟩

theorem witness_UpdateWritesBackAndAdvances :
    (∃ s : State, s.faults.isEmpty = true ∧ s.st = .update ∧ 1 ≤ s.i.toNat ∧ s.i.toNat ≤ Config.params.nMax ∧ s.i < s.n) ∧
    (∃ s : State, s.faults.isEmpty = true ∧ s.st = .update ∧ 1 ≤ s.i.toNat ∧ s.i.toNat ≤ Config.params.nMax ∧
      ¬ s.i < s.n ∧ s.j < 5) ∧
    ∃ s : State, s.faults.isEmpty = true ∧ s.st = .update ∧ 1 ≤ s.i.toNat ∧ s.i.toNat ≤ Config.params.nMax ∧
      ¬ s.i < s.n ∧ ¬ s.j < 5 := by
  have h1 := Config.params.one_le_nMax
  have hm := nMost_toNat
  refine ⟨⟨{ busyAt .update with n := 2 }, rfl, rfl, by decide, h1, by decide⟩,
    ⟨{ busyAt .update with i := nMost, j := 4 }, rfl, rfl, ?_, hm.le, ?_, by decide⟩,
    ⟨{ busyAt .update with i := nMost, j := 5 }, rfl, rfl, ?_, hm.le, ?_, by decide⟩⟩
  · show 1 ≤ nMost.toNat
    omega
  · exact BitVec.lt_irrefl nMost
  · show 1 ≤ nMost.toNat
    omega
  · exact BitVec.lt_irrefl nMost

theorem witness_RelReleasesAndReports : ((busyAt .rel).faults.isEmpty = true ∧ (busyAt .rel).st = .rel ∧
      (busyAt .rel).pend = .none) ∧
    { busyAt .rel with pend := .keySetupFail }.pend ≠ .none := ⟨⟨rfl, rfl, rfl⟩, by simp⟩

theorem witness_EngineFrames : (∃ t, exec .fsmIdle State.reset = .next t) ∧ (∃ t, exec .fsmAcq (busyAt .acq) = .next t) ∧
    (∃ t, exec .fsmSetkey (busyAt .setkey) = .next t) ∧ (∃ t, exec .fsmForm State.reset = .next t) ∧
    (∃ t, exec .fsmEncwait (busyAt .encwait) = .next t) ∧ (∃ t, exec .fsmRel (busyAt .rel) = .next t) ∧
    (∃ t, exec .fsmInit (busyAt .init) = .next t) ∧
    ∃ t, exec .fsmUpdate (busyAt .update) = .next t ∧ t.st ≠ .update := by
  refine ⟨⟨_, rfl⟩, ⟨_, rfl⟩, ⟨_, rfl⟩, ⟨_, rfl⟩, ⟨_, rfl⟩, ⟨_, rfl⟩, ⟨_, rfl⟩, ?_⟩
  have h1 := Config.params.one_le_nMax
  show ∃ t, updateStep Config.params (busyAt .update) = .next t ∧ _
  have hr : ¬ Config.params.nMax < (busyAt .update).i.toNat := by
    show ¬ _ < 1
    omega
  rw [updateStep, if_pos (by decide), if_neg hr]
  rcases advance_cases (busyAt .update).j (busyAt .update).i (busyAt .update).n with ⟨_, e⟩ | ⟨_, _, e⟩ | ⟨_, _, e⟩ <;>
    rw [e] <;> exact ⟨_, rfl, by simp⟩

theorem witness_ArbiterGrantsARequest : ({ busyAt .acq with gnt := false }.st ≠ .idle ∧
    { busyAt .acq with gnt := false }.gnt = false) ∧ State.reset.st = .idle ∧ (busyAt .acq).gnt = true :=
  ⟨⟨by simp [busyAt], rfl⟩, rfl, rfl⟩

/-! ### The counter -/

theorem witness_CounterNeverWraps : nMost.toNat ≤ Config.params.nMax ∧ (5 : BitVec 3).toNat ≤ 5 ∧ 1 ≤ nMost.toNat ∧
    nMost.toNat ≤ nMost.toNat := ⟨nMost_toNat.le, by decide, by rw [nMost_toNat]; exact Config.params.one_le_nMax, le_rfl⟩

theorem witness_HigherCounterBytes : (1 ≤ (1 : Word).toNat ∧ (1 : Word).toNat ≤ 715827882) ∧
    (1 ≤ (715827882 : Word).toNat ∧ (715827882 : Word).toNat ≤ 715827882) := by decide

/-! ### The whole machine -/

theorem witness_FaultsAndRefusalAreKept : ∃ s t : State, step s = .next t ∧ s.faults.mem .uninitBuf = true ∧
    s.refused = true :=
  ⟨{ State.reset with faults := { uninitBuf := true }, refused := true }.sched .reset, _, rfl, rfl, rfl⟩

theorem witness_InputsFixedWhileBusy : (busyAt .acq).st ≠ .idle ∧
    ∃ t, step ((busyAt .acq).sched (.hostWrite (.reg 0x008) 4 5)) = .next t := ⟨by simp [busyAt], _, rfl⟩

theorem witness_HeldRisesAtAcqFallsAtRel :
    (∃ t, step ((busyAt .acq).sched .engine) = .next t ∧ (busyAt .acq).held = false ∧ t.held = true) ∧
    (∃ t, step ((busyAt .rel).sched .engine) = .next t ∧ (busyAt .rel).held = true ∧ t.held = false) ∧
    ∃ t, step ((busyAt .rel).sched .reset) = .next t ∧ t.held = false :=
  ⟨⟨_, rfl, rfl, rfl⟩, ⟨_, rfl, rfl, rfl⟩, ⟨_, rfl, rfl⟩⟩

/-- One witness for each change: gnt up and down, DONE up and down, ERR up (reported, rejected) and down, ERRCODE changed. -/
theorem witness_GrantAndFlagsChangeOnlyByTheirRules :
    (∃ t, step ({ busyAt .acq with gnt := false }.sched .arbiter) = .next t ∧ t.gnt = true) ∧
    (∃ t, step ((busyAt .rel).sched .engine) = .next t ∧
      (busyAt .rel).gnt = true ∧ t.gnt = false ∧ (busyAt .rel).done = false ∧ t.done = true) ∧
    (∃ t, step ({ busyAt .rel with pend := .keySetupFail }.sched .engine) = .next t ∧
      (busyAt .rel).err = false ∧ t.err = true ∧ (busyAt .rel).errCode = .none ∧ t.errCode = .keySetupFail) ∧
    (∃ t, step ({ State.reset with done := true }.sched (.hostWrite (.reg 0x000) 4 0x00000002)) = .next t ∧
      t.done = false ∧ t.err = true ∧ t.errCode = .illegalCmd) ∧
    (∃ t, step ({ State.reset with err := true, errCode := .illegalCmd }.sched .reset) = .next t ∧
      t.err = false ∧ t.errCode = .none) ∧
    commandWord Config.params (.hostWrite (.reg 0x000) 4 0x00000002) = some 0x00000002 :=
  ⟨⟨_, rfl, rfl⟩, ⟨_, rfl, rfl, rfl, rfl, rfl⟩, ⟨_, rfl, rfl, rfl, rfl, rfl⟩,
    ⟨{ State.reset with done := false, err := true, errCode := .illegalCmd }, rfl, rfl, rfl, rfl⟩,
    ⟨_, rfl, rfl, rfl⟩, rfl⟩

theorem witness_EveryStepKeepsBufCanonicalAndKeysAccepted : ∃ s t : State, step s = .next t ∧ Memory.wf s.buf = true ∧
    s.keyAccepted Config.params :=
  ⟨State.reset.sched .engine, _, rfl, rfl, fun _ _ h => by cases h⟩

/-- The controller's invariants hold while an operation waits for the grant. -/
theorem acq_inv : CtrlInv Config.params (busyAt .acq) := by
  have h1 := Config.params.pMinN_le_nMax
  have h2 := nMost_toNat
  constructor
  case bufWf => exact fill_wf _ _
  case bufExtent => exact loaded_extent
  case busyInputs => exact fun _ => ⟨by show _ ≤ nMost.toNat; omega, h2.le, by decide⟩
  all_goals simp [busyAt, State.reset, FsmState.inLoop, FsmState.keyed, State.portEmpty, State.held]

theorem witness_EveryStepKeepsTheControllerInvariants : CtrlInv Config.params ((busyAt .acq).sched .engine) ∧
    ∃ t, step ((busyAt .acq).sched .engine) = .next t := by
  have h := acq_inv
  exact ⟨⟨h.1, h.2, h.3, h.4, h.5, h.6, h.7, h.8, h.9, h.10, h.11, h.12, h.13, h.14, h.15, h.16, h.17, h.18⟩, _, rfl⟩

theorem witness_BusyMachineIsNeverStuck : CtrlInv Config.params (busyAt .acq) ∧ (busyAt .acq).st ≠ .idle ∧
    (busyAt .acq).faults.isEmpty = true := ⟨acq_inv, by simp [busyAt], rfl⟩

/-- The first FORM of an operation whose slot 1 nobody loaded. -/
def unloaded : State :=
  { busyAt .form with buf := Memory.writeBytes [] (8 * 0) aInit.toList, aesKey := some (busyAt .form).kekOperand }

theorem unloaded_inv : CtrlInv Config.params unloaded := by
  have h1 := Config.params.pMinN_le_nMax
  have h3 := Config.params.one_le_nMax
  have h2 := nMost_toNat
  have hi : unloaded.i.toNat = 1 := rfl
  constructor
  case bufWf => exact Memory.writeBytes_wf _ _ _ rfl
  case bufExtent =>
    exact Memory.writeBytes_extent _ _ _ _ (by simp [Memory.read]) (by simp [Params.bufBytes])
  case busyInputs => exact fun _ => ⟨by show _ ≤ nMost.toNat; omega, h2.le, by decide⟩
  case loopIndices => exact fun _ => ⟨by decide, by decide, by show 1 ≤ nMost.toNat; omega⟩
  case slotAWritten => intro _; exact Memory.written_writeBytes_same _ _ _
  case slotsWritten =>
    intro _ k hk _ hc
    rw [hi] at hc
    rcases hc with hc | hc | ⟨_, hc⟩
    · exact absurd rfl hc
    · omega
    · exact absurd rfl hc
  case keyInstalled => exact fun _ => rfl
  all_goals simp [unloaded, busyAt, State.reset, State.portEmpty, State.held]

theorem witness_UninitBufOnlyInTheFirstRound : CtrlInv Config.params unloaded ∧ unloaded.faults.uninitBuf = false ∧
    ∃ t, step (unloaded.sched .engine) = .next t ∧ t.faults.uninitBuf = true := by
  refine ⟨unloaded_inv, rfl, unloaded.recordFault .uninitBuf, ?_, rfl⟩
  have h1 := Config.params.one_le_nMax
  rw [step_engine]
  show formStep Config.params unloaded = _
  have hw : Memory.written unloaded.buf (slotSel unloaded.i) 8 = false := by decide
  have hr : ¬ Config.params.nMax < unloaded.i.toNat := by
    show ¬ _ < 1
    omega
  rw [formStep, if_pos (by decide), if_neg hr, if_neg (by rw [hw]; decide)]

/-- An idle KWE with everything loaded. -/
def ready : State := { State.reset with n := nMost, kekLen := 32, buf := loaded }

theorem ready_inv : CtrlInv Config.params ready := by
  constructor
  case bufWf => exact fill_wf _ _
  case bufExtent => exact loaded_extent
  all_goals simp [ready, State.reset, FsmState.inLoop, FsmState.keyed, State.portEmpty, State.held]

theorem ready_loaded (k : Nat) (h1 : 1 ≤ k) (hk : k ≤ ready.n.toNat) : Memory.slot ready.buf k = some (plain k) :=
  loaded_slot k h1 (by have h : ready.n.toNat = _ := nMost_toNat; omega)

theorem witness_AcceptedWrapStartsTheBufferInvariant : CtrlInv Config.params ready ∧ ready.st = .idle ∧
    ready.faults.isEmpty = true ∧ (∀ k, 1 ≤ k → k ≤ ready.n.toNat → Memory.slot ready.buf k = some (plain k)) ∧
    ∃ t, exec .wrap ready = .next t ∧ t.st = .acq := by
  refine ⟨ready_inv, rfl, rfl, ready_loaded, _, rfl, ?_⟩
  have h1 := Config.params.pMinN_le_nMax
  have h2 : ready.n.toNat = _ := nMost_toNat
  rcases wrapCommand_cases Config.params ready with ⟨h, _⟩ | ⟨_, h, _⟩ | ⟨_, _, _, h, _⟩ | ⟨_, _, _, _, e⟩
  · exact absurd rfl h
  · omega
  · exact absurd h (by decide)
  · rw [e]

theorem witness_EveryStepKeepsTheBufferInvariant_busy : CtrlInv Config.params (busyAt .acq) ∧
    RunInv Config.params loaded plain (busyAt .acq) := by
  refine ⟨acq_inv, ?_⟩
  constructor
  case loaded => exact ready_loaded
  all_goals simp [busyAt, State.reset, FsmState.inLoop, FaultSet.isEmpty]

/-- An operation that has run its 6N iterations and is about to report. -/
def finished : State :=
  { busyAt .rel with
    buf := fill (refWrap ((busyAt .rel).enc Config.params) nMost.toNat plain (6 * nMost.toNat)) nMost.toNat }

theorem finished_inv (p : ErrCode) (hp : p = .none ∨ p = .keySetupFail) :
    CtrlInv Config.params { finished with pend := p } := by
  have h1 := Config.params.pMinN_le_nMax
  have h2 := nMost_toNat
  constructor
  case bufWf => exact fill_wf _ _
  case bufExtent =>
    intro a h
    by_contra hc
    have h3 : Memory.read finished.buf a = none := fill_extent _ _ _ (by
      rw [h2]; simpa [Params.bufBytes] using hc)
    rw [h3] at h
    cases h
  case busyInputs => exact fun _ => ⟨by show _ ≤ nMost.toNat; omega, h2.le, (by decide : (32 : BitVec 6).toNat ≤ 32)⟩
  all_goals simp [finished, busyAt, State.reset, FsmState.inLoop, FsmState.keyed, State.portEmpty, State.held, hp]

theorem witness_EveryStepKeepsTheBufferInvariant_done : CtrlInv Config.params (finished.sched .engine) ∧
    RunInv Config.params loaded plain (finished.sched .engine) ∧
    ∃ t, step (finished.sched .engine) = .next t ∧ t.st = .idle ∧ t.done = true := by
  have h := finished_inv .none (.inl rfl)
  have h2 := nMost_toNat
  refine ⟨⟨h.1, h.2, h.3, h.4, h.5, h.6, h.7, h.8, h.9, h.10, h.11, h.12, h.13, h.14, h.15, h.16, h.17, h.18⟩, ?_,
    { finished with st := .idle, gnt := false, done := true }, rfl, rfl, rfl⟩
  constructor
  case loaded => exact ready_loaded
  case outside =>
    intro a ha
    have ha : 8 * (nMost.toNat + 1) ≤ a := ha
    have h3 : Memory.read finished.buf a = none := fill_extent _ _ _ ha
    have h4 : Memory.read loaded a = none := fill_extent _ _ _ (by omega)
    exact h3.trans h4.symm
  case finished => exact fun _ _ => fill_holds _ _
  all_goals simp [State.sched, finished, busyAt, State.reset, FsmState.inLoop, FaultSet.isEmpty]

theorem witness_EveryStepKeepsTheBufferInvariant_failed :
    RunInv Config.params loaded plain { busyAt .rel with pend := .keySetupFail } ∧
    ∃ t, step ({ busyAt .rel with pend := .keySetupFail }.sched .engine) = .next t ∧ t.st = .idle ∧ t.err = true := by
  refine ⟨?_, _, rfl, rfl, rfl⟩
  constructor
  case loaded => exact ready_loaded
  all_goals simp [busyAt, State.reset, FsmState.inLoop, FaultSet.isEmpty]

/-- An operation whose key the collaborator has rejected. -/
def rejected : State := { busyAt .setkey with aesResp := some ⟨.setKey, false, vec 16 fun _ => 0⟩ }

theorem rejected_inv : CtrlInv Config.params rejected := by
  have h1 := Config.params.pMinN_le_nMax
  have h2 := nMost_toNat
  constructor
  case bufWf => exact fill_wf _ _
  case bufExtent => exact loaded_extent
  case busyInputs => exact fun _ => ⟨by show _ ≤ nMost.toNat; omega, h2.le, by decide⟩
  all_goals simp [rejected, busyAt, State.reset, FsmState.inLoop, FsmState.keyed, State.portEmpty, State.held]

/-- One witness for each path: a step of the success path, a rejected key, a model fault, the step to IDLE. -/
theorem witness_EachEngineStepCountsDown :
    (CtrlInv Config.params (busyAt .acq) ∧ ∃ t, step ((busyAt .acq).sched .engine) = .next t ∧ t ≠ busyAt .acq ∧
      t.faults.isEmpty = true ∧ ¬((busyAt .acq).st = .setkey ∧ t.st = .rel)) ∧
    (CtrlInv Config.params rejected ∧ ∃ t, step (rejected.sched .engine) = .next t ∧ t ≠ rejected ∧
      t.faults.isEmpty = true ∧ rejected.st = .setkey ∧ t.st = .rel) ∧
    (CtrlInv Config.params unloaded ∧ ∃ t, step (unloaded.sched .engine) = .next t ∧ t ≠ unloaded ∧
      t.faults.isEmpty = false) ∧
    (CtrlInv Config.params finished ∧ ∃ t, step (finished.sched .engine) = .next t ∧ t ≠ finished ∧ t.st = .idle) := by
  refine ⟨⟨acq_inv, _, rfl, fun h => ?_, rfl, by simp [busyAt]⟩,
    ⟨rejected_inv, { rejected with aesResp := none, pend := .keySetupFail, st := .rel }, rfl, fun h => ?_, rfl, rfl, rfl⟩,
    ⟨unloaded_inv, ?_⟩,
    ⟨finished_inv .none (.inl rfl), { finished with st := .idle, gnt := false, done := true }, rfl, fun h => ?_, rfl⟩⟩
  · exact absurd (congrArg State.st h) (by decide)
  · exact absurd (congrArg State.st h) (by simp [rejected, busyAt])
  · obtain ⟨t, ht, hu⟩ := witness_UninitBufOnlyInTheFirstRound.2.2
    refine ⟨t, ht, fun h => ?_, by simp [FaultSet.isEmpty, hu]⟩
    rw [h] at hu
    exact absurd hu (by simp [unloaded, busyAt, State.reset])
  · exact absurd (congrArg State.st h) (by simp [finished, busyAt])

end Sys2Proof.Tests
end

/-! # Proofs of the scope statements (spec/00_scope.md)

First the rules about which instruction a scheduling choice finds, what an access selects, what a BUF word reads as and
when an Engine step is held; then one theorem per obligation. -/

namespace Sys2Proof.Machine

/-! ## The instruction a scheduling choice finds -/

/-- A choice that finds an instruction runs it (R14). -/
theorem step_sched_of_instrOf {s : State} {e : Event} {i : Instr} (h : instrOf Config.params e s = some i) :
    step (s.sched e) = exec i s := by
  rw [step_sched, h]

@[simp] theorem decodedInstr_ok (i : Instr) (rest : List Byte) : decodedInstr (.ok (i, rest)) = some i := rfl

/-- The Engine finds what the code of the controller's state decodes to (R88, R140). -/
theorem instrOf_engine (p : Params) (s : State) :
    instrOf p .engine s = decodedInstr (decode .fsmState [s.st.code.setWidth 8]) := rfl

/-- The AES agent finds what the bytes of the waiting request decode to (R89, R90). -/
theorem instrOf_aes_bytes (p : Params) {s : State} {q : AesReq} (h : s.aesReq = some q) :
    instrOf p .aes s = decodedInstr (decode .aesReq (reqBytes q)) := by
  simp only [instrOf, h]

/-- A write that selects CMD finds what its word decodes to (R111). -/
theorem instrOf_write_cmd (p : Params) {a : BusAddr} {width : Nat} (v : Word) (s : State)
    (h : access p a width = some .cmd) :
    instrOf p (.hostWrite a width v) s = decodedInstr (decode .cmd (wordBytes v)) := by
  simp only [instrOf, h]

/-- With nothing on the agenda the step is that of the free choice, the clock advanced (log entry 1). -/
theorem step_of_agenda_nil {s : State} (h : s.agenda = []) :
    step s = step ({ s with clock := s.clock + 1 }.sched (Config.freeEvent s.clock)) := by
  simp [step, takeEvent, State.sched, h]

/-! ## What an access selects -/

/-- Offset 0 is CMD (R67, R92). -/
theorem access_reg_cmd (p : Params) : access p (.reg 0x000) 4 = some .cmd := rfl

/-- The offsets from 0x100 on are the words of BUF (R67, R92). -/
theorem target_buf_offset (p : Params) {w : Nat} (h : 4 * w < p.bufBytes) :
    target p (0x100 + 4 * w) = some (.buf w) := by
  have hinside : 0x100 + 4 * w < p.windowBytes := by rw [Params.windowBytes]; omega
  have hword : (0x100 + 4 * w - 0x100) / 4 = w := by omega
  rw [target, if_neg (by omega), if_neg (by omega), if_neg (by omega), if_neg (by omega), dif_neg (by omega),
    if_neg (by omega), if_pos hinside, hword]

/-- A whole aligned access there selects its word of BUF (R110, R111). -/
theorem access_reg_buf (p : Params) {w : Nat} (h : 4 * w < p.bufBytes) :
    access p (.reg (0x100 + 4 * w)) 4 = some (.buf w) := by
  have haligned : (0x100 + 4 * w) % 4 = 0 := by omega
  rw [← target_buf_offset p h]
  exact if_pos ⟨rfl, haligned⟩

/-- A bus address at or above BASE selects what its offset from BASE selects (R67). -/
theorem access_bus_of_le (p : Params) {a : Nat} (width : Nat) (h : p.base ≤ a) :
    access p (.bus a) width = access p (.reg (a - p.base)) width := by
  simp [access, busOffset, h]

/-- A bus address below BASE selects nothing (log entry 17). -/
theorem access_bus_of_lt (p : Params) {a : Nat} (width : Nat) (h : a < p.base) :
    access p (.bus a) width = none := by
  simp [access, busOffset, Nat.not_le.2 h]

/-! ## The step of a Host access -/

theorem step_hostRead (s : State) (a : BusAddr) (width : Nat) :
    step (s.sched (.hostRead a width)) = .next (hostRead Config.params a width s) := rfl

/-- An admitted read returns the value of its target and uses up the draws of that target (R110). -/
theorem step_hostRead_of_access (s : State) {a : BusAddr} {width : Nat} {t : Target}
    (h : access Config.params a width = some t) :
    step (s.sched (.hostRead a width)) =
      .next { s with busData := some (readValue s t), draws := s.draws + readDraws s t } := by
  rw [step_hostRead, hostRead, h]

/-- A refused read sets the mark and returns no value (R64, R110). -/
theorem step_hostRead_of_refused (s : State) {a : BusAddr} {width : Nat} (h : access Config.params a width = none) :
    step (s.sched (.hostRead a width)) = .next { s with refused := true, busData := none } := by
  rw [step_hostRead, hostRead, h]; rfl

/-- A refused write sets the mark (R64, R111). -/
theorem step_hostWrite_of_refused (s : State) {a : BusAddr} {width : Nat} (v : Word)
    (h : access Config.params a width = none) :
    step (s.sched (.hostWrite a width v)) = .next { s with refused := true } := by
  simp [step_sched, instrOf, plainStep, hostWrite, State.refuse, h]

/-- Two reads that select the same target are the same step. -/
theorem step_hostRead_congr (s : State) {a a' : BusAddr} {width : Nat}
    (h : access Config.params a width = access Config.params a' width) :
    step (s.sched (.hostRead a width)) = step (s.sched (.hostRead a' width)) := by
  simp only [step_hostRead, hostRead, h]

/-- Two writes that select the same target are the same step. -/
theorem step_hostWrite_congr (s : State) {a a' : BusAddr} {width : Nat} (v : Word)
    (h : access Config.params a width = access Config.params a' width) :
    step (s.sched (.hostWrite a width v)) = step (s.sched (.hostWrite a' width v)) := by
  simp only [step_sched, instrOf, plainStep, hostWrite, h]

/-! ## Reading a word of BUF -/

/-- The lanes of a word are the bytes it is put together from (R62). -/
theorem lane_ofLanes (b0 b1 b2 b3 : Byte) :
    lane (ofLanes b0 b1 b2 b3) 0 = b0 ∧ lane (ofLanes b0 b1 b2 b3) 1 = b1 ∧
      lane (ofLanes b0 b1 b2 b3) 2 = b2 ∧ lane (ofLanes b0 b1 b2 b3) 3 = b3 := by
  have above (start : Nat) (h : 8 ≤ start) {n : Nat} (x : BitVec n) (y : Byte) :
      (x ++ y).extractLsb' start 8 = x.extractLsb' (start - 8) 8 := BitVec.extractLsb'_append_eq_of_le h
  refine ⟨BitVec.extractLsb'_append_eq_right, ?_, ?_, ?_⟩
  · exact (above 8 (by decide) _ _).trans BitVec.extractLsb'_append_eq_right
  · exact ((above 16 (by decide) _ _).trans (above 8 (by decide) _ _)).trans BitVec.extractLsb'_append_eq_right
  · exact ((above 24 (by decide) _ _).trans (above 16 (by decide) _ _)).trans BitVec.extractLsb'_append_eq_left

/-- Each lane of an idle read is the byte of its offset, an unwritten one as the draw of its lane (R121). -/
theorem lane_readBufWord {s : State} (hidle : s.st = .idle) (w : Nat) {b : Nat} (hb : b < 4) :
    lane (readBufWord w s) b = s.byteAt (4 * w + b) b := by
  have hword : readBufWord w s = ofLanes (s.byteAt (4 * w) 0) (s.byteAt (4 * w + 1) 1)
      (s.byteAt (4 * w + 2) 2) (s.byteAt (4 * w + 3) 3) := by
    simp [readBufWord, (State.busy_eq_false_iff s).2 hidle]
  obtain ⟨h0, h1, h2, h3⟩ := lane_ofLanes (s.byteAt (4 * w) 0) (s.byteAt (4 * w + 1) 1)
    (s.byteAt (4 * w + 2) 2) (s.byteAt (4 * w + 3) 3)
  rw [hword]
  interval_cases b
  exacts [h0, h1, h2, h3]

/-- A written byte is read as it stands. -/
theorem State.byteAt_of_written {s : State} {a : Nat} {x : Byte} (d : Nat) (h : Memory.read s.buf a = some x) :
    s.byteAt a d = x := by
  simp [State.byteAt, h]

/-- An unwritten byte is read as a draw (R16, R34). -/
theorem State.byteAt_of_unwritten {s : State} {a : Nat} (d : Nat) (h : Memory.read s.buf a = none) :
    s.byteAt a d = Config.draw (s.draws + d) := by
  simp [State.byteAt, h]

/-- An access with an unwritten byte uses up one draw for each of its bytes (R16). -/
theorem State.drawCount_of_unwritten {s : State} {a len b : Nat} (hb : b < len)
    (h : Memory.read s.buf (a + b) = none) : s.drawCount a len = len := by
  have hw : ¬ Memory.written s.buf a len = true := by
    intro hall
    simpa [h] using (Memory.written_iff s.buf a len).1 hall b hb
  simp [State.drawCount, hw]

/-! ## Held agents -/

/-- Once a model fault is recorded every Engine step is held (R220). -/
theorem step_engine_of_fault {s : State} (h : s.faults.isEmpty = false) : step (s.sched .engine) = .next s := by
  have held (x : FsmState) : s.engineIn x = false := by simp [State.engineIn, h]
  rw [step_engine]
  cases s.st with
  | idle => rfl
  | acq => simp [exec, execFsmAcq, acqStep, held]
  | setkey => simp [exec, execFsmSetkey, setkeyStep, held]
  | init => simp [exec, execFsmInit, initStep, held]
  | form => simp [exec, execFsmForm, formStep, held]
  | encwait => simp [exec, execFsmEncwait, encwaitStep, held]
  | update => simp [exec, execFsmUpdate, updateStep, held]
  | rel => simp [exec, execFsmRel, relStep, held]

/-- ACQ waits for the grant and an empty port (R144). -/
theorem acqStep_held {s : State} (h : s.gnt = false ∨ s.aesReq ≠ none ∨ s.aesResp ≠ none) : acqStep s = s := by
  rcases acqStep_cases s with held | ⟨-, -, hgnt, hreq, hresp, -⟩
  · exact held
  · simp [hgnt, hreq, hresp] at h

/-- SETKEY waits for a response (R145). -/
theorem setkeyStep_held {s : State} (h : s.aesResp = none) : setkeyStep s = s := by
  rcases setkeyStep_cases s with held | ⟨r, -, -, hresp, -⟩
  · exact held
  · simp [h] at hresp

/-- ENCWAIT waits for a response (R148). -/
theorem encwaitStep_held {s : State} (h : s.aesResp = none) : encwaitStep s = s := by
  rcases encwaitStep_cases s with held | ⟨r, -, -, hresp, -⟩
  · exact held
  · simp [h] at hresp

/-- FORM waits for an empty port (R147). -/
theorem formStep_held (p : Params) {s : State} (h : s.aesReq ≠ none ∨ s.aesResp ≠ none) :
    formStep p s = .next s := by
  rcases formStep_cases p s with held | ⟨-, -, hreq, hresp, -⟩
  · exact held
  · simp [hreq, hresp] at h

/-- The key setup waits for its own request, an empty response register and no model fault (R176, R220). -/
theorem setKeyStep_held (p : Params) {kl : BitVec 6} {key : KeyField} {s : State}
    (h : ¬(s.faults.isEmpty = true ∧ s.aesReq = some (.setKey kl key) ∧ s.aesResp = none)) :
    setKeyStep p kl key s = s := by
  rw [← State.aesAsked_iff] at h
  exact if_neg h

/-- The encryption waits for its own request, an empty response register and no model fault (R177, R220). -/
theorem encryptStep_held (p : Params) {blk : Block} {s : State}
    (h : ¬(s.faults.isEmpty = true ∧ s.aesReq = some (.encrypt blk) ∧ s.aesResp = none)) :
    encryptStep p blk s = s := by
  rw [← State.aesAsked_iff] at h
  exact if_neg h

/-! ## Where a step answers a next state -/

/-- FORM answers a next state wherever the slot exists (R147, log entry 11). -/
theorem formStep_answers {p : Params} {s : State} (h : s.i.toNat ≤ p.nMax) : ∃ t, formStep p s = .next t := by
  rcases formStep_cases p s with held | ⟨-, -, -, -, ⟨hout, -⟩ | ⟨-, -, hfault⟩ | ⟨-, -, hissue⟩⟩
  · exact ⟨_, held⟩
  · omega
  · exact ⟨_, hfault⟩
  · exact ⟨_, hissue⟩

/-- UPDATE answers a next state wherever the slot exists (R149, log entry 11). -/
theorem updateStep_answers {p : Params} {s : State} (h : s.i.toNat ≤ p.nMax) : ∃ t, updateStep p s = .next t := by
  rcases updateStep_cases p s with held | ⟨-, -, ⟨hout, -⟩ | ⟨-, hback⟩⟩
  · exact ⟨_, held⟩
  · omega
  · exact ⟨_, hback⟩

/-- Every command answers a next state (R123 to R126). -/
theorem exec_decodeCmd_answers (v : Word) (s : State) : ∃ t, exec (decodeCmd v) s = .next t := by
  rcases exec_decodeCmd_cases v s with ⟨-, h⟩ | ⟨-, h⟩ | ⟨-, -, h⟩ <;> exact ⟨_, h⟩

/-- In the loop the slot index names a slot of BUF (R160.1, R192). -/
theorem CtrlInv.slotInBuf {p : Params} {s : State} (h : CtrlInv p s) (hloop : s.st.inLoop = true) :
    s.i.toNat ≤ p.nMax := by
  have hbusy : s.st ≠ .idle := by intro hidle; simp [hidle, FsmState.inLoop] at hloop
  obtain ⟨-, hn, -⟩ := h.busyInputs hbusy
  obtain ⟨-, -, hi⟩ := h.loopIndices hloop
  exact hi.trans hn

/-- The Engine answers a next state where the slot of a loop step exists. -/
theorem step_engine_answers {s : State} (h : s.st.inLoop = true → s.i.toNat ≤ Config.params.nMax) :
    ∃ t, step (s.sched .engine) = .next t := by
  rw [step_engine]
  cases hst : s.st with
  | idle | acq | setkey | init | encwait | rel => exact ⟨_, rfl⟩
  | form => exact formStep_answers (h (by rw [hst]; rfl))
  | update => exact updateStep_answers (h (by rw [hst]; rfl))

/-- Every scheduling choice answers a next state where the slot of a loop step exists: only the Engine can stop. -/
theorem step_sched_answers {s : State} (h : s.st.inLoop = true → s.i.toNat ≤ Config.params.nMax) (e : Event) :
    ∃ t, step (s.sched e) = .next t := by
  rcases step_cases s e with rfl | ⟨-, ⟨-, hnext⟩ | ⟨_, _, -, hnext⟩ | ⟨_, -, hnext⟩⟩ | ⟨-, hnext⟩ |
    ⟨_, _, -, hnext⟩ | ⟨_, _, _, -, -, hnext⟩ | ⟨_, _, v, -, -, hcmd⟩ | ⟨_, _, _, _, -, -, -, hnext⟩ | ⟨-, hnext⟩
  on_goal 8 => exact hcmd ▸ exec_decodeCmd_answers v s
  · exact step_engine_answers h
  all_goals exact ⟨_, hnext⟩

/-! ## The obligations -/

/-- Settles O14: the word's target is BUF, each lane is the byte or the draw of its lane, and four draws are used up. -/
theorem hostReadsDrawsForUnwrittenBytes : Obligations.HostReadsDrawsForUnwrittenBytes := by
  intro s w hidle hw ⟨c, hc, hunwritten⟩
  have hdraws : readDraws s (.buf w) = 4 := by
    simp [readDraws, (State.busy_eq_false_iff s).2 hidle, State.drawCount_of_unwritten hc hunwritten]
  refine ⟨readBufWord w s, ?_, fun b hb => ⟨fun x hx => ?_, fun hx => ?_⟩⟩
  · rw [step_hostRead_of_access s (access_reg_buf _ hw), hdraws]
    rfl
  · exact (lane_readBufWord hidle w hb).trans (State.byteAt_of_written b hx)
  · exact (lane_readBufWord hidle w hb).trans (State.byteAt_of_unwritten b hx)

/-- Settles O41: each clause is the held case of the step that its state or request selects. -/
theorem heldAgentsChangeNothing : Obligations.HeldAgentsChangeNothing := by
  intro s
  refine ⟨step_engine_of_fault, fun hst hwait => ?_, fun hst hresp => ?_, fun hst hport => ?_,
    fun kl key hask => ?_, fun blk hask => ?_⟩
  · rw [step_engine, hst]
    exact congrArg _ (acqStep_held hwait)
  · rcases hst with hst | hst
    · rw [step_engine, hst]
      exact congrArg _ (setkeyStep_held hresp)
    · rw [step_engine, hst]
      exact congrArg _ (encwaitStep_held hresp)
  · rw [step_engine, hst]
    exact formStep_held _ hport
  · exact congrArg _ (setKeyStep_held _ hask)
  · exact congrArg _ (encryptStep_held _ hask)

/-- Settles O55: only FORM and UPDATE can stop, and the invariants keep their slot inside BUF. -/
theorem noStopUnderTheControllerInvariants : Obligations.NoStopUnderTheControllerInvariants := by
  intro s hinv
  obtain ⟨e, s', hstep, hs'⟩ := step_eq_sched s
  have hst : s'.st = s.st := by rw [hs']
  have hi : s'.i = s.i := by rw [hs']
  rw [hstep]
  exact step_sched_answers (by rw [hst, hi]; exact hinv.slotInBuf) e

/-- Settles O6: the instruction that the choice finds is the decoding of its source's bytes. -/
theorem stepRunsTheDecodedInstruction : Obligations.StepRunsTheDecodedInstruction := by
  refine fun s => ⟨fun v i hdec => ?_, fun i hdec => ?_, fun q i hreq hdec => ?_, step_of_agenda_nil⟩
  · exact step_sched_of_instrOf (by rw [instrOf_write_cmd _ v s (access_reg_cmd _), hdec, decodedInstr_ok])
  · exact step_sched_of_instrOf (by rw [instrOf_engine, hdec, decodedInstr_ok])
  · exact step_sched_of_instrOf (by rw [instrOf_aes_bytes _ hreq, hdec, decodedInstr_ok])

/-- Settles O20: a step depends on an access only by the target it selects. -/
theorem busAddressesAreOffsetsFromBase : Obligations.BusAddressesAreOffsetsFromBase := by
  intro s a width v
  by_cases hbase : Config.params.base ≤ a
  · rw [if_pos hbase, if_pos hbase]
    have hsame := access_bus_of_le Config.params width hbase
    exact ⟨step_hostWrite_congr s v hsame, step_hostRead_congr s hsame⟩
  · rw [if_neg hbase, if_neg hbase]
    have hnone := access_bus_of_lt Config.params width (Nat.not_le.1 hbase)
    exact ⟨step_hostWrite_of_refused s v hnone, step_hostRead_of_refused s hnone⟩

end Sys2Proof.Machine

/-! # Proofs of the state statements (spec/10_state.md)

First every move of the Engine with its guards, then the controller's invariants move by move; then the rules of the whole
machine, read off what one step can do. -/

namespace Sys2Proof.Machine

/-! ## Every move of the Engine, with its guards -/

/-- A step of the Engine that is not held, with the guards of its rule (R144 to R152) and what it makes of the state. -/
inductive EngineMove (p : Params) (s t : State) : Prop
  | acq (hst : s.st = .acq) (hgnt : s.gnt = true) (hreq : s.aesReq = none) (hresp : s.aesResp = none)
      (ht : t = { s with aesReq := some (setKeyReq s), st := .setkey })
  | setkeyOk (r : AesResp) (hst : s.st = .setkey) (hresp : s.aesResp = some r) (hrop : r.rop = .setKey)
      (hok : r.ok = true) (ht : t = { s with aesResp := none, st := .init })
  | setkeyBad (r : AesResp) (hst : s.st = .setkey) (hresp : s.aesResp = some r) (hrop : r.rop = .setKey)
      (hok : r.ok = false) (ht : t = { s with aesResp := none, pend := .keySetupFail, st := .rel })
  | mismatch (r : AesResp) (hresp : s.aesResp = some r)
      (hst : s.st = .setkey ∧ r.rop = .encrypt ∨ s.st = .encwait ∧ r.rop = .setKey)
      (ht : t = s.recordFault .aesProtocol)
  | init (hst : s.st = .init)
      (ht : t = { s with buf := Memory.writeBytes s.buf (8 * 0) aInit.toList, j := 0, i := 1, st := .form })
  | unwritten (hst : s.st = .form) (hreq : s.aesReq = none) (hresp : s.aesResp = none) (hi : s.i.toNat ≤ p.nMax)
      (hw : Memory.written s.buf (8 * s.i.toNat) 8 = false) (ht : t = s.recordFault .uninitBuf)
  | form (hst : s.st = .form) (hreq : s.aesReq = none) (hresp : s.aesResp = none) (hi : s.i.toNat ≤ p.nMax)
      (hw : Memory.written s.buf (8 * s.i.toNat) 8 = true)
      (ht : t = { s with
        b := formedBlock s.i s, draws := s.draws + s.drawCount 0 8
        aesReq := some (.encrypt (formedBlock s.i s)), st := .encwait })
  | encwait (r : AesResp) (hst : s.st = .encwait) (hresp : s.aesResp = some r) (hrop : r.rop = .encrypt)
      (ht : t = { s with aesResp := none, b := r.blk, st := .update })
  | update (hst : s.st = .update) (hi : s.i.toNat ≤ p.nMax)
      (ht : t = { s with
        buf := writtenBack s, j := (advance s.j s.i s.n).1, i := (advance s.j s.i s.n).2.1
        st := (advance s.j s.i s.n).2.2 })
  | relDone (hst : s.st = .rel) (hpend : s.pend = .none)
      (ht : t = { s with st := .idle, gnt := false, done := true })
  | relError (hst : s.st = .rel) (hpend : s.pend ≠ .none)
      (ht : t = { s with st := .idle, gnt := false, err := true, errCode := s.pend })

/-- An Engine step that answers a next state is held, or makes one of the moves above with no model fault recorded. -/
theorem step_engine_next {s t : State} (h : step (s.sched .engine) = .next t) :
    t = s ∨ (s.faults.isEmpty = true ∧ EngineMove Config.params s t) := by
  rw [step_engine] at h
  cases hst : s.st with
  | idle => rw [hst] at h; cases h; exact .inl rfl
  | acq =>
    rw [hst] at h; cases h
    rcases acqStep_cases s with held | ⟨hfree, -, hgnt, hreq, hresp, ht⟩
    · exact .inl held
    · exact .inr ⟨hfree, .acq hst hgnt hreq hresp ht⟩
  | setkey =>
    rw [hst] at h; cases h
    rcases setkeyStep_cases s with held | ⟨r, hfree, -, hresp, ⟨hrop, hok, ht⟩ | ⟨hrop, hok, ht⟩ | ⟨hrop, ht⟩⟩
    · exact .inl held
    · exact .inr ⟨hfree, .setkeyOk r hst hresp hrop hok ht⟩
    · exact .inr ⟨hfree, .setkeyBad r hst hresp hrop hok ht⟩
    · exact .inr ⟨hfree, .mismatch r hresp (.inl ⟨hst, hrop⟩) ht⟩
  | init =>
    rw [hst] at h; cases h
    rcases initStep_cases s with held | ⟨hfree, -, ht⟩
    · exact .inl held
    · exact .inr ⟨hfree, .init hst ht⟩
  | form =>
    rw [hst] at h
    change formStep Config.params s = .next t at h
    rcases formStep_cases Config.params s with held | ⟨hfree, -, hreq, hresp, ⟨-, ht⟩ | ⟨hi, hw, ht⟩ | ⟨hi, hw, ht⟩⟩
    · rw [held] at h; cases h; exact .inl rfl
    · rw [ht] at h; cases h
    · rw [ht] at h; cases h; exact .inr ⟨hfree, .unwritten hst hreq hresp hi hw rfl⟩
    · rw [ht] at h; cases h; exact .inr ⟨hfree, .form hst hreq hresp hi hw rfl⟩
  | encwait =>
    rw [hst] at h; cases h
    rcases encwaitStep_cases s with held | ⟨r, hfree, -, hresp, ⟨hrop, ht⟩ | ⟨hrop, ht⟩⟩
    · exact .inl held
    · exact .inr ⟨hfree, .encwait r hst hresp hrop ht⟩
    · exact .inr ⟨hfree, .mismatch r hresp (.inr ⟨hst, hrop⟩) ht⟩
  | update =>
    rw [hst] at h
    change updateStep Config.params s = .next t at h
    rcases updateStep_cases Config.params s with held | ⟨hfree, -, ⟨-, ht⟩ | ⟨hi, ht⟩⟩
    · rw [held] at h; cases h; exact .inl rfl
    · rw [ht] at h; cases h
    · rw [ht] at h; cases h; exact .inr ⟨hfree, .update hst hi rfl⟩
  | rel =>
    rw [hst] at h; cases h
    rcases relStep_cases s with held | ⟨hfree, -, ⟨hpend, ht⟩ | ⟨hpend, ht⟩⟩
    · exact .inl held
    · exact .inr ⟨hfree, .relDone hst hpend ht⟩
    · exact .inr ⟨hfree, .relError hst hpend ht⟩

/-! ## What the controller's invariants say in one controller state -/

section
variable {p : Params} {s : State}

theorem CtrlInv.granted (h : CtrlInv p s) (h1 : s.st ≠ .idle) (h2 : s.st ≠ .acq) : s.gnt = true :=
  h.heldGranted ((State.held_iff s).2 ⟨h1, h2⟩)

/-- Outside SETKEY and ENCWAIT the port is empty (R160.2). -/
theorem CtrlInv.port_empty (h : CtrlInv p s) (h1 : s.st ≠ .setkey) (h2 : s.st ≠ .encwait) :
    s.aesReq = none ∧ s.aesResp = none := by
  rw [← State.portEmpty_iff, ← Bool.not_eq_false]
  exact fun hused => (h.portStates hused).elim h1 h2

theorem CtrlInv.pend_none (h : CtrlInv p s) (h1 : s.st ≠ .rel) (h2 : s.st ≠ .idle) : s.pend = .none :=
  h.pendCode.resolve_right fun hover => hover.2.elim h1 h2

/-- While a response waits the request register is empty (R171). -/
theorem CtrlInv.aesReq_none (h : CtrlInv p s) {r : AesResp} (hresp : s.aesResp = some r) : s.aesReq = none :=
  h.portOne.resolve_right (by simp [hresp])

/-- The response in SETKEY is that of this operation's key setup (R172, R175). -/
theorem CtrlInv.setkey_resp (h : CtrlInv p s) (hst : s.st = .setkey) {r : AesResp} (hresp : s.aesResp = some r) :
    r.rop = .setKey ∧ (r.ok = true → s.aesKey = some s.kekOperand) := by
  rcases h.setkeyPort hst with hreq | ⟨r', hresp', hr'⟩
  · simp [h.aesReq_none hresp] at hreq
  · obtain rfl : r' = r := by simpa [hresp'] using hresp
    exact hr'

/-- The response in ENCWAIT is that of an encryption (R173, R175). -/
theorem CtrlInv.encwait_resp (h : CtrlInv p s) (hst : s.st = .encwait) {r : AesResp} (hresp : s.aesResp = some r) :
    r.rop = .encrypt := by
  rcases h.encwaitPort hst with hreq | ⟨r', hresp', hr'⟩
  · simp [h.aesReq_none hresp] at hreq
  · obtain rfl : r' = r := by simpa [hresp'] using hresp
    exact hr'

/-- A waiting request is this operation's key setup, in SETKEY, or the encryption of B, in ENCWAIT (R172, R173). -/
theorem CtrlInv.request (h : CtrlInv p s) {q : AesReq} (hreq : s.aesReq = some q) :
    (s.st = .setkey ∧ q = setKeyReq s) ∨ (s.st = .encwait ∧ q = .encrypt s.b) := by
  have hresp : s.aesResp = none := h.portOne.resolve_left (by simp [hreq])
  rcases h.portStates (by simp [State.portEmpty, hreq]) with hst | hst
  · have := h.setkeyPort hst
    simp [hreq, hresp] at this
    exact .inl ⟨hst, this⟩
  · have := h.encwaitPort hst
    simp [hreq, hresp] at this
    exact .inr ⟨hst, this⟩

/-- What is left of the invariants while the controller is IDLE. -/
theorem CtrlInv.of_idle (hst : s.st = .idle) (hwf : Memory.wf s.buf = true)
    (hext : ∀ a, (Memory.read s.buf a).isSome = true → a < p.bufBytes) (hgnt : s.gnt = false)
    (hreq : s.aesReq = none) (hresp : s.aesResp = none) (hflags : s.done = true → s.err = false)
    (hcode : s.err = true ↔ s.errCode ≠ .none) (hpend : s.pend = .none ∨ s.pend = .keySetupFail)
    (hfault : s.faults.aesNoKey = false ∧ s.faults.aesProtocol = false) : CtrlInv p s where
  bufWf := hwf
  bufExtent := hext
  portOne := .inl hreq
  idleReleased _ := ⟨hgnt, (State.portEmpty_iff s).2 ⟨hreq, hresp⟩⟩
  doneNotErr := hflags
  errCoded := hcode
  pendCode := hpend.imp_right fun hfail => ⟨hfail, .inr hst⟩
  noAesFault := hfault
  portStates hused := by simp [State.portEmpty, hreq, hresp] at hused
  busyInputs hbusy := absurd hst hbusy
  busyFlags hbusy := absurd hst hbusy
  loopIndices := by rw [hst]; nofun
  setkeyPort := by rw [hst]; nofun
  encwaitPort := by rw [hst]; nofun
  keyInstalled := by rw [hst]; nofun
  heldGranted := by simp [State.held_iff, hst]
  slotAWritten := by rw [hst]; nofun
  slotsWritten := by rw [hst]; nofun

/-- In IDLE the grant is down and the port is empty (R160.4). -/
theorem CtrlInv.idle_released (h : CtrlInv p s) (hst : s.st = .idle) :
    s.gnt = false ∧ s.aesReq = none ∧ s.aesResp = none := by
  rw [← State.portEmpty_iff]
  exact h.idleReleased hst

/-- A slot that the operation uses lies inside BUF (R60). -/
theorem slot_le_bufBytes {k : Nat} (h : k ≤ p.nMax) : 8 * k + 8 ≤ p.bufBytes := by
  rw [Params.bufBytes]; omega

/-! ## The Engine's moves keep the invariants -/

/-- ACQ to SETKEY: the key setup is issued under the grant. -/
theorem CtrlInv.acq_move (h : CtrlInv p s) (hst : s.st = .acq) (hgnt : s.gnt = true) (hresp : s.aesResp = none) :
    CtrlInv p { s with aesReq := some (setKeyReq s), st := .setkey } :=
  have hbusy : s.st ≠ .idle := by simp [hst]
  { h with
    busyInputs := fun _ => h.busyInputs hbusy
    busyFlags := fun _ => h.busyFlags hbusy
    portOne := .inr hresp
    portStates := fun _ => .inl rfl
    setkeyPort := fun _ => .inl rfl
    heldGranted := fun _ => hgnt
    pendCode := .inl (h.pend_none (by simp [hst]) hbusy)
    loopIndices := nofun, encwaitPort := nofun, keyInstalled := nofun, idleReleased := nofun
    slotAWritten := nofun, slotsWritten := nofun }

/-- SETKEY to INIT: the accepted key is the installed one. -/
theorem CtrlInv.setkeyOk_move (h : CtrlInv p s) {r : AesResp} (hst : s.st = .setkey) (hresp : s.aesResp = some r)
    (hok : r.ok = true) : CtrlInv p { s with aesResp := none, st := .init } :=
  have hbusy : s.st ≠ .idle := by simp [hst]
  { h with
    busyInputs := fun _ => h.busyInputs hbusy
    busyFlags := fun _ => h.busyFlags hbusy
    portOne := .inr rfl
    portStates := by simp [State.portEmpty, h.aesReq_none hresp]
    keyInstalled := fun _ => (h.setkey_resp hst hresp).2 hok
    heldGranted := fun _ => h.granted hbusy (by simp [hst])
    pendCode := .inl (h.pend_none (by simp [hst]) hbusy)
    loopIndices := nofun, setkeyPort := nofun, encwaitPort := nofun, idleReleased := nofun
    slotAWritten := nofun, slotsWritten := nofun }

/-- SETKEY to REL: the failed key setup is latched. -/
theorem CtrlInv.setkeyBad_move (h : CtrlInv p s) {r : AesResp} (hst : s.st = .setkey) (hresp : s.aesResp = some r) :
    CtrlInv p { s with aesResp := none, pend := .keySetupFail, st := .rel } :=
  have hbusy : s.st ≠ .idle := by simp [hst]
  { h with
    busyInputs := fun _ => h.busyInputs hbusy
    busyFlags := fun _ => h.busyFlags hbusy
    portOne := .inr rfl
    portStates := by simp [State.portEmpty, h.aesReq_none hresp]
    heldGranted := fun _ => h.granted hbusy (by simp [hst])
    pendCode := .inr ⟨rfl, .inl rfl⟩
    loopIndices := nofun, setkeyPort := nofun, encwaitPort := nofun, keyInstalled := nofun, idleReleased := nofun
    slotAWritten := nofun, slotsWritten := nofun }

/-- INIT to FORM: slot 0 is written and the first iteration is next. -/
theorem CtrlInv.init_move (h : CtrlInv p s) (hst : s.st = .init) :
    CtrlInv p { s with buf := Memory.writeBytes s.buf (8 * 0) aInit.toList, j := 0, i := 1, st := .form } :=
  have hbusy : s.st ≠ .idle := by simp [hst]
  have hport := h.port_empty (by simp [hst]) (by simp [hst])
  have hn : 1 ≤ s.n.toNat := by
    have := p.pMinN_values
    have := (h.busyInputs hbusy).1
    omega
  { h with
    bufWf := Memory.writeBytes_wf _ _ _ h.bufWf
    bufExtent := Memory.writeBytes_extent _ _ _ _ h.bufExtent (by simpa using slot_le_bufBytes p.nMax.zero_le)
    busyInputs := fun _ => h.busyInputs hbusy
    busyFlags := fun _ => h.busyFlags hbusy
    loopIndices := fun _ => ⟨by simp, by simp, hn⟩
    portStates := by simp [State.portEmpty, hport]
    keyInstalled := fun _ => h.keyInstalled (by rw [hst]; rfl)
    heldGranted := fun _ => h.granted hbusy (by simp [hst])
    pendCode := .inl (h.pend_none (by simp [hst]) hbusy)
    slotAWritten := fun _ => Memory.written_writeBytes_same _ _ _
    slotsWritten := by
      rintro - k hk - (hj | hlt | ⟨-, hform⟩)
      · exact absurd rfl hj
      · exact absurd hlt (Nat.not_lt.2 hk)
      · exact absurd rfl hform
    setkeyPort := nofun, encwaitPort := nofun, idleReleased := nofun }

/-- FORM to ENCWAIT: the encryption of B is issued, and R[i] was found written. -/
theorem CtrlInv.form_move (h : CtrlInv p s) (hst : s.st = .form) (hresp : s.aesResp = none)
    (hw : Memory.written s.buf (8 * s.i.toNat) 8 = true) (b : Block) (d : Nat) :
    CtrlInv p { s with b := b, draws := d, aesReq := some (.encrypt b), st := .encwait } :=
  have hbusy : s.st ≠ .idle := by simp [hst]
  have hloop : s.st.inLoop = true := by rw [hst]; rfl
  { h with
    busyInputs := fun _ => h.busyInputs hbusy
    busyFlags := fun _ => h.busyFlags hbusy
    loopIndices := fun _ => h.loopIndices hloop
    portOne := .inr hresp
    portStates := fun _ => .inr rfl
    encwaitPort := fun _ => .inl rfl
    keyInstalled := fun _ => h.keyInstalled (by rw [hst]; rfl)
    heldGranted := fun _ => h.granted hbusy (by simp [hst])
    pendCode := .inl (h.pend_none (by simp [hst]) hbusy)
    slotAWritten := fun _ => h.slotAWritten hloop
    slotsWritten := by
      rintro - k hk hn (hj | hlt | ⟨rfl, -⟩)
      · exact h.slotsWritten hloop k hk hn (.inl hj)
      · exact h.slotsWritten hloop k hk hn (.inr (.inl hlt))
      · exact hw
    setkeyPort := nofun, idleReleased := nofun }

/-- ENCWAIT to UPDATE: the answer is taken. -/
theorem CtrlInv.encwait_move (h : CtrlInv p s) {r : AesResp} (hst : s.st = .encwait) (hresp : s.aesResp = some r)
    (b : Block) : CtrlInv p { s with aesResp := none, b := b, st := .update } :=
  have hbusy : s.st ≠ .idle := by simp [hst]
  have hloop : s.st.inLoop = true := by rw [hst]; rfl
  { h with
    busyInputs := fun _ => h.busyInputs hbusy
    busyFlags := fun _ => h.busyFlags hbusy
    loopIndices := fun _ => h.loopIndices hloop
    portOne := .inr rfl
    portStates := by simp [State.portEmpty, h.aesReq_none hresp]
    keyInstalled := fun _ => h.keyInstalled (by rw [hst]; rfl)
    heldGranted := fun _ => h.granted hbusy (by simp [hst])
    pendCode := .inl (h.pend_none (by simp [hst]) hbusy)
    slotAWritten := fun _ => h.slotAWritten hloop
    slotsWritten := fun _ k hk hn hdone =>
      h.slotsWritten hloop k hk hn (hdone.imp_right (.imp_right (.imp_right fun _ => by simp [hst])))
    setkeyPort := nofun, encwaitPort := nofun, idleReleased := nofun }

theorem writtenBack_wf (h : Memory.wf s.buf = true) : Memory.wf (writtenBack s) = true :=
  Memory.writeBytes_wf _ _ _ (Memory.writeBytes_wf _ _ _ h)

/-- The write-back stays inside BUF (R60). -/
theorem writtenBack_extent (h : ∀ a, (Memory.read s.buf a).isSome = true → a < p.bufBytes)
    (hi : s.i.toNat ≤ p.nMax) : ∀ a, (Memory.read (writtenBack s) a).isSome = true → a < p.bufBytes := by
  have hA := Memory.writeBytes_extent s.buf (8 * 0) (foldCounter s.b (counter s.n s.j s.i)).toList _ h
    (by simpa using slot_le_bufBytes p.nMax.zero_le)
  exact Memory.writeBytes_extent _ _ _ _ hA (by simpa using slot_le_bufBytes hi)

/-- The write-back leaves no byte unwritten that was written (R39). -/
theorem writtenBack_written {a len : Nat} (h : Memory.written s.buf a len = true) :
    Memory.written (writtenBack s) a len = true :=
  Memory.written_writeBytes _ _ _ _ _ (Memory.written_writeBytes _ _ _ _ _ h)

/-- UPDATE to FORM: any buffer that keeps BUF's bounds and its written bytes, and any next pair of indices in range of
which no slot is claimed written that was not. -/
theorem CtrlInv.update_form_move (h : CtrlInv p s) (hst : s.st = .update) {m : Memory} {j : BitVec 3} {i : Word}
    (hwf : Memory.wf m = true) (hext : ∀ a, (Memory.read m a).isSome = true → a < p.bufBytes)
    (hkept : ∀ a len, Memory.written s.buf a len = true → Memory.written m a len = true)
    (hindices : j.toNat ≤ 5 ∧ 1 ≤ i.toNat ∧ i.toNat ≤ s.n.toNat)
    (hdone : ∀ k, k ≤ s.n.toNat → j ≠ 0 ∨ k < i.toNat → s.j ≠ 0 ∨ k ≤ s.i.toNat) :
    CtrlInv p { s with buf := m, j := j, i := i, st := .form } :=
  have hbusy : s.st ≠ .idle := by simp [hst]
  have hloop : s.st.inLoop = true := by rw [hst]; rfl
  have hport := h.port_empty (by simp [hst]) (by simp [hst])
  { h with
    bufWf := hwf
    bufExtent := hext
    busyInputs := fun _ => h.busyInputs hbusy
    busyFlags := fun _ => h.busyFlags hbusy
    loopIndices := fun _ => hindices
    portStates := by simp [State.portEmpty, hport]
    keyInstalled := fun _ => h.keyInstalled (by rw [hst]; rfl)
    heldGranted := fun _ => h.granted hbusy (by simp [hst])
    pendCode := .inl (h.pend_none (by simp [hst]) hbusy)
    slotAWritten := fun _ => hkept _ _ (h.slotAWritten hloop)
    slotsWritten := by
      intro _ k hk hn hclaim
      have hclaim : j ≠ 0 ∨ k < i.toNat :=
        hclaim.imp_right fun hor => hor.resolve_right fun hform => hform.2 rfl
      refine hkept _ _ (h.slotsWritten hloop k hk hn ((hdone k hn hclaim).imp_right fun hle => ?_))
      exact hle.lt_or_eq.imp_right fun heq => ⟨heq, by simp [hst]⟩
    setkeyPort := nofun, encwaitPort := nofun, idleReleased := nofun }

/-- UPDATE to REL: the operation is over, whatever buffer it leaves in bounds. -/
theorem CtrlInv.update_rel_move (h : CtrlInv p s) (hst : s.st = .update) {m : Memory} (hwf : Memory.wf m = true)
    (hext : ∀ a, (Memory.read m a).isSome = true → a < p.bufBytes) : CtrlInv p { s with buf := m, st := .rel } :=
  have hbusy : s.st ≠ .idle := by simp [hst]
  have hport := h.port_empty (by simp [hst]) (by simp [hst])
  { h with
    bufWf := hwf
    bufExtent := hext
    busyInputs := fun _ => h.busyInputs hbusy
    busyFlags := fun _ => h.busyFlags hbusy
    portStates := by simp [State.portEmpty, hport]
    heldGranted := fun _ => h.granted hbusy (by simp [hst])
    pendCode := .inl (h.pend_none (by simp [hst]) hbusy)
    loopIndices := nofun, setkeyPort := nofun, encwaitPort := nofun, keyInstalled := nofun, idleReleased := nofun
    slotAWritten := nofun, slotsWritten := nofun }

/-- UPDATE, by the three branches of Advance (R151). -/
theorem CtrlInv.update_move (h : CtrlInv p s) (hst : s.st = .update) (hi : s.i.toNat ≤ p.nMax) :
    CtrlInv p { s with
      buf := writtenBack s, j := (advance s.j s.i s.n).1, i := (advance s.j s.i s.n).2.1
      st := (advance s.j s.i s.n).2.2 } := by
  obtain ⟨hj5, hi1, hin⟩ := h.loopIndices (by rw [hst]; rfl)
  have hwf := writtenBack_wf h.bufWf
  have hext := writtenBack_extent h.bufExtent hi
  have hkept (a len : Nat) (hw : Memory.written s.buf a len = true) := writtenBack_written hw
  rcases advance_cases s.j s.i s.n with ⟨hlt, hadv⟩ | ⟨hlast, hj, hadv⟩ | ⟨-, -, hadv⟩ <;> rw [hadv]
  · have hnext : (s.i + 1).toNat = s.i.toNat + 1 := BitVec.toNat_add_of_lt (by simp; omega)
    refine h.update_form_move hst hwf hext hkept ⟨hj5, ?_, ?_⟩ fun k _ hclaim => hclaim.imp_right fun hlt => ?_
    all_goals simp only [hnext] at *; omega
  · have hround : (s.j + 1).toNat = s.j.toNat + 1 := BitVec.toNat_add_of_lt (by simp; omega)
    refine h.update_form_move hst hwf hext hkept ⟨?_, le_rfl, hi1.trans hin⟩ fun k hk _ => .inr (hk.trans hlast)
    simp only [hround]; omega
  · exact h.update_rel_move hst hwf hext

/-- REL to IDLE, with success reported. -/
theorem CtrlInv.relDone_move (h : CtrlInv p s) (hst : s.st = .rel) :
    CtrlInv p { s with st := .idle, gnt := false, done := true } := by
  obtain ⟨hreq, hresp⟩ := h.port_empty (by simp [hst]) (by simp [hst])
  obtain ⟨-, herr⟩ := h.busyFlags (by simp [hst])
  exact .of_idle rfl h.bufWf h.bufExtent rfl hreq hresp (fun _ => herr) h.errCoded (h.pendCode.imp_right And.left)
    h.noAesFault

/-- REL to IDLE, with the pending error reported. -/
theorem CtrlInv.relError_move (h : CtrlInv p s) (hst : s.st = .rel) (hpend : s.pend ≠ .none) :
    CtrlInv p { s with st := .idle, gnt := false, err := true, errCode := s.pend } := by
  obtain ⟨hreq, hresp⟩ := h.port_empty (by simp [hst]) (by simp [hst])
  obtain ⟨hdone, -⟩ := h.busyFlags (by simp [hst])
  exact .of_idle rfl h.bufWf h.bufExtent rfl hreq hresp (by simp [hdone]) (by simp [hpend])
    (h.pendCode.imp_right And.left) h.noAesFault

/-- The Engine never meets a response of another kind (R175). -/
theorem CtrlInv.no_mismatch (h : CtrlInv p s) {r : AesResp} (hresp : s.aesResp = some r) :
    ¬(s.st = .setkey ∧ r.rop = .encrypt ∨ s.st = .encwait ∧ r.rop = .setKey) := by
  rintro (⟨hst, hrop⟩ | ⟨hst, hrop⟩)
  · simp [(h.setkey_resp hst hresp).1] at hrop
  · simp [h.encwait_resp hst hresp] at hrop

/-- UNINIT_BUF is no fault of the port. -/
theorem CtrlInv.record_uninitBuf (h : CtrlInv p s) : CtrlInv p (s.recordFault .uninitBuf) :=
  { h with noAesFault := h.noAesFault }

theorem EngineMove.keeps_ctrlInv {t : State} (hmove : EngineMove p s t) (h : CtrlInv p s) : CtrlInv p t := by
  cases hmove with
  | acq hst hgnt _ hresp ht => exact ht ▸ h.acq_move hst hgnt hresp
  | setkeyOk r hst hresp _ hok ht => exact ht ▸ h.setkeyOk_move hst hresp hok
  | setkeyBad r hst hresp _ _ ht => exact ht ▸ h.setkeyBad_move hst hresp
  | mismatch r hresp hkind => exact absurd hkind (h.no_mismatch hresp)
  | init hst ht => exact ht ▸ h.init_move hst
  | unwritten _ _ _ _ _ ht => exact ht ▸ h.record_uninitBuf
  | form hst _ hresp _ hw ht => exact ht ▸ h.form_move hst hresp hw _ _
  | encwait r hst hresp _ ht => exact ht ▸ h.encwait_move hst hresp r.blk
  | update hst hi ht => exact ht ▸ h.update_move hst hi
  | relDone hst _ ht => exact ht ▸ h.relDone_move hst
  | relError hst hpend ht => exact ht ▸ h.relError_move hst hpend

/-! ## The steps of the other agents keep the invariants -/

/-- The AES agent's key setup answers SETKEY with this operation's key installed if accepted (R176). -/
theorem CtrlInv.keeps_setKeyStep (h : CtrlInv p s) {kl : BitVec 6} {key : KeyField}
    (hreq : s.aesReq = some (.setKey kl key)) : CtrlInv p (setKeyStep p kl key s) := by
  rcases setKeyStep_cases p kl key s with ⟨-, ht⟩ | ⟨-, -, -, ht⟩
  · rwa [ht]
  · obtain ⟨hst, hq⟩ | ⟨-, hq⟩ := h.request hreq
    · obtain ⟨rfl, rfl⟩ : kl = s.kekLen ∧ key = keyField s.kek s.kekLen := by simpa [setKeyReq] using hq
      rw [ht]
      exact { h with
        portOne := .inl rfl
        portStates := fun _ => .inl hst
        setkeyPort := fun _ => .inr ⟨_, rfl, rfl, fun hok => if_pos hok⟩
        encwaitPort := by rw [hst]; nofun
        keyInstalled := by rw [hst]; nofun
        idleReleased := by rw [hst]; nofun }
    · cases hq

/-- The AES agent's encryption finds a key installed, and answers ENCWAIT (R177). -/
theorem CtrlInv.keeps_encryptStep (h : CtrlInv p s) {blk : Block} (hreq : s.aesReq = some (.encrypt blk)) :
    CtrlInv p (encryptStep p blk s) := by
  obtain ⟨-, hq⟩ | ⟨hst, -⟩ := h.request hreq
  · cases hq
  · rcases encryptStep_cases p blk s with ⟨-, ht⟩ | ⟨-, -, -, hnokey, -⟩ | ⟨kl, k, -, -, -, -, ht⟩
    · rwa [ht]
    · simp [h.keyInstalled (by rw [hst]; rfl)] at hnokey
    · rw [ht]
      exact { h with
        portOne := .inl rfl
        portStates := fun _ => .inr hst
        setkeyPort := by rw [hst]; nofun
        encwaitPort := fun _ => .inr ⟨_, rfl, rfl⟩
        idleReleased := by rw [hst]; nofun }

theorem CtrlInv.keeps_arbiterStep (h : CtrlInv p s) : CtrlInv p (arbiterStep s) := by
  rcases arbiterStep_cases s with ht | ⟨hbusy, -, ht⟩
  · rwa [ht]
  · rw [ht]
    exact { h with heldGranted := fun _ => rfl, idleReleased := fun hidle => absurd hidle hbusy }

theorem CtrlInv.keeps_hostRead (h : CtrlInv p s) (a : BusAddr) (width : Nat) : CtrlInv p (hostRead p a width s) := by
  rcases hostRead_cases p a width s with ⟨-, ht⟩ | ⟨x, -, ht⟩ <;> rw [ht] <;> exact { h with }

/-- A command turned down while idle leaves its error in the flags (R215). -/
theorem CtrlInv.keeps_rejection (h : CtrlInv p s) (hst : s.st = .idle) {code : ErrCode} (hcode : code ≠ .none) :
    CtrlInv p { s with done := false, err := true, errCode := code } := by
  obtain ⟨hgnt, hreq, hresp⟩ := h.idle_released hst
  exact .of_idle hst h.bufWf h.bufExtent hgnt hreq hresp nofun (by simp [hcode]) (h.pendCode.imp_right And.left)
    h.noAesFault

/-- IDLE to ACQ: the inputs have passed WRAP's checks and the flags are cleared (R124). -/
theorem CtrlInv.accepted_move (h : CtrlInv p s) (hst : s.st = .idle)
    (hinputs : p.pMinN ≤ s.n.toNat ∧ s.n.toNat ≤ p.nMax ∧ s.kekLen.toNat ≤ 32) :
    CtrlInv p { s with done := false, err := false, errCode := .none, pend := .none, st := .acq } :=
  have hport := h.idle_released hst
  { h with
    busyInputs := fun _ => hinputs
    busyFlags := fun _ => ⟨rfl, rfl⟩
    portStates := by simp [State.portEmpty, hport]
    heldGranted := nofun
    doneNotErr := nofun
    errCoded := by simp
    pendCode := .inl rfl
    loopIndices := nofun, setkeyPort := nofun, encwaitPort := nofun, keyInstalled := nofun, idleReleased := nofun
    slotAWritten := nofun, slotsWritten := nofun }

theorem CtrlInv.keeps_wrapCommand (h : CtrlInv p s) : CtrlInv p (wrapCommand p s) := by
  rcases wrapCommand_cases p s with ⟨-, ht⟩ | ⟨hst, -, ht⟩ | ⟨hst, -, -, -, ht⟩ | ⟨hst, hmin, hmax, hlen, ht⟩
  · rwa [ht]
  · exact ht ▸ h.keeps_rejection hst (by simp)
  · exact ht ▸ h.keeps_rejection hst (by simp)
  · exact ht ▸ h.accepted_move hst ⟨hmin, hmax, hlen⟩

theorem CtrlInv.keeps_illegalCommand (h : CtrlInv p s) : CtrlInv p (illegalCommand s) := by
  rcases illegalCommand_cases s with ⟨-, ht⟩ | ⟨hst, ht⟩
  · rwa [ht]
  · exact ht ▸ h.keeps_rejection hst (by simp)

/-- While idle any other inputs will do: WRAP checks them. -/
theorem CtrlInv.idle_inputs (h : CtrlInv p s) (hst : s.st = .idle) (n : Word) (kekLen : BitVec 6)
    (kek : Vector Word 8) : CtrlInv p { s with n := n, kekLen := kekLen, kek := kek } := by
  obtain ⟨hgnt, hreq, hresp⟩ := h.idle_released hst
  exact .of_idle hst h.bufWf h.bufExtent hgnt hreq hresp h.doneNotErr h.errCoded (h.pendCode.imp_right And.left)
    h.noAesFault

/-- While idle the Host may write anywhere inside BUF (R122). -/
theorem CtrlInv.idle_writeBytes (h : CtrlInv p s) (hst : s.st = .idle) {a : Nat} {bs : List Byte}
    (hinside : a + bs.length ≤ p.bufBytes) : CtrlInv p { s with buf := Memory.writeBytes s.buf a bs } := by
  obtain ⟨hgnt, hreq, hresp⟩ := h.idle_released hst
  exact .of_idle hst (Memory.writeBytes_wf _ _ _ h.bufWf) (Memory.writeBytes_extent _ _ _ _ h.bufExtent hinside)
    hgnt hreq hresp h.doneNotErr h.errCoded (h.pendCode.imp_right And.left) h.noAesFault

/-- A write of a register or a BUF word keeps the invariants, where a BUF word lies inside BUF. -/
theorem CtrlInv.keeps_writeTarget (h : CtrlInv p s) (v : Word) {x : Target}
    (hinside : ∀ w, x = .buf w → 4 * w + 4 ≤ p.bufBytes) : CtrlInv p (writeTarget v s x) := by
  rcases writeTarget_cases v s x with ht | ⟨hst, ⟨-, ht⟩ | ⟨-, ht⟩ | ⟨k, -, ht⟩ | ⟨w, hw, ht⟩⟩
  · rwa [ht]
  · exact ht ▸ h.idle_inputs hst v s.kekLen s.kek
  · exact ht ▸ h.idle_inputs hst s.n (v.setWidth 6) s.kek
  · exact ht ▸ h.idle_inputs hst s.n s.kekLen (s.kek.set k v)
  · exact ht ▸ h.idle_writeBytes hst (hinside w hw)

/-- A reset leads to IDLE with everything released, whatever ran before; the recorded faults stay (R240). -/
theorem resetStep_ctrlInv (p : Params) (hfault : s.faults.aesNoKey = false ∧ s.faults.aesProtocol = false) :
    CtrlInv p (resetStep s) :=
  .of_idle rfl rfl nofun rfl rfl rfl nofun (by simp [resetStep, State.reset]) (.inl rfl) hfault

end

/-- What a chosen agent does keeps the controller's invariants. -/
theorem CtrlInv.keeps_step {s t : State} {e : Event} (h : CtrlInv Config.params s)
    (hstep : step (s.sched e) = .next t) : CtrlInv Config.params t := by
  rcases step_cases s e with rfl | ⟨rfl, ⟨-, hnext⟩ | ⟨kl, key, hreq, hnext⟩ | ⟨blk, hreq, hnext⟩⟩ | ⟨rfl, hnext⟩ |
    ⟨a, width, rfl, hnext⟩ | ⟨a, width, v, rfl, -, hnext⟩ | ⟨a, width, v, rfl, -, hnext⟩ |
    ⟨a, width, v, x, rfl, hx, -, hnext⟩ | ⟨rfl, hnext⟩
  · obtain rfl | ⟨-, hmove⟩ := step_engine_next hstep
    · exact h
    · exact hmove.keeps_ctrlInv h
  all_goals rw [hnext] at hstep
  · cases hstep; exact h
  · cases hstep; exact h.keeps_setKeyStep hreq
  · cases hstep; exact h.keeps_encryptStep hreq
  · cases hstep; exact h.keeps_arbiterStep
  · cases hstep; exact h.keeps_hostRead a width
  · cases hstep; exact { h with }
  · rcases exec_decodeCmd_cases v s with ⟨-, hcmd⟩ | ⟨-, hcmd⟩ | ⟨-, -, hcmd⟩ <;> rw [hcmd] at hstep <;> cases hstep
    · exact h
    · exact h.keeps_wrapCommand
    · exact h.keeps_illegalCommand
  · cases hstep
    exact h.keeps_writeTarget v fun w hw => access_buf _ a width w (hw ▸ hx)
  · cases hstep; exact resetStep_ctrlInv _ h.noAesFault

/-! ## What one step can do to the inputs, the position, the grant and the flags -/

/-- A flag that stays, or rises for one reason and falls for another, changes only for its reason. -/
theorem rises_and_falls {before after : Bool} {up down : Prop}
    (h : after = before ∨ (after = true ∧ up) ∨ (after = false ∧ down)) :
    (before = false → after = true → up) ∧ (before = true → after = false → down) := by
  rcases h with rfl | ⟨rfl, hup⟩ | ⟨rfl, hdown⟩
  · exact ⟨fun h0 h1 => by simp [h0] at h1, fun h1 h0 => by simp [h1] at h0⟩
  · exact ⟨fun _ _ => hup, nofun⟩
  · exact ⟨nofun, fun _ _ => hdown⟩

section
variable {s t : State} {e : Event} (h : step (s.sched e) = .next t)
include h

/-- A recorded model fault stays recorded (R39). -/
theorem step_faults_kept (r : ModelFault) (hr : s.faults.mem r = true) : t.faults.mem r = true := by
  cases step_effect s t e h with
  | fault r' _ ht =>
    rw [ht]
    exact (FaultSet.mem_insert s.faults r' r).2 (.inr hr)
  | _ => subst_vars; exact hr

/-- The refusal mark stays set (R39, R221). -/
theorem step_refused_kept (hr : s.refused = true) : t.refused = true := by
  cases step_effect s t e h with
  | host _ _ _ hmark ht => rw [ht]; exact hmark hr
  | _ => subst_vars; exact hr

/-- While BUSY only a reset changes the inputs: the Host's writes are dropped (R116, R118, R120). -/
theorem step_inputs_of_busy (hbusy : s.st ≠ .idle) (hreset : e ≠ .reset) :
    t.n = s.n ∧ t.kekLen = s.kekLen ∧ t.kek = s.kek := by
  cases step_effect s t e h with
  | hw hidle => exact absurd hidle hbusy
  | reset he => exact absurd he hreset
  | _ => subst_vars; exact ⟨rfl, rfl, rfl⟩

/-- While BUSY a step that is neither the Engine's nor a reset changes at most the port, the installed key, the grant, the
recorded faults and the Host's own elements (R40). -/
theorem step_frame_of_busy (hbusy : s.st ≠ .idle) (hengine : e ≠ .engine) (hreset : e ≠ .reset) :
    t = { s with
      aesReq := t.aesReq, aesResp := t.aesResp, aesKey := t.aesKey, gnt := t.gnt, faults := t.faults
      busData := t.busData, draws := t.draws, refused := t.refused } := by
  cases step_effect s t e h with
  | same ht | fault _ _ ht | aes _ _ _ ht | arb _ _ ht | host _ _ _ _ ht => subst ht; rfl
  | acq he | setkeyOk he | setkeyBad he | init he | form he | encwait he | update he | relOk he | relBad he =>
    exact absurd he hengine
  | cmdRej c hrejected =>
    obtain ⟨hidle, -⟩ := hrejected
    exact absurd hidle hbusy
  | cmdAcc hidle | hw hidle => exact absurd hidle hbusy
  | reset he => exact absurd he hreset

/-- `held` stays, rises at ACQ's move to SETKEY, or falls at a reset or REL's move to IDLE (R35). -/
theorem step_held_cases :
    t.held = s.held ∨ (t.held = true ∧ e = .engine ∧ s.st = .acq ∧ t.st = .setkey) ∨
      (t.held = false ∧ (e = .reset ∨ (e = .engine ∧ s.st = .rel ∧ t.st = .idle))) := by
  cases step_effect s t e h with
  | acq he hst ht => rw [ht]; exact .inr (.inl ⟨rfl, he, hst, rfl⟩)
  | relOk he hst _ ht | relBad he hst _ ht => rw [ht]; exact .inr (.inr ⟨rfl, .inr ⟨he, hst, rfl⟩⟩)
  | reset he ht => rw [ht]; exact .inr (.inr ⟨rfl, .inl he⟩)
  | setkeyOk _ hst ht | setkeyBad _ hst ht | init _ hst _ _ ht | form _ hst _ _ _ ht | encwait _ hst _ ht
  | cmdAcc hst _ ht => exact .inl (by simp [State.held, hst, ht])
  | update _ hst _ _ _ x hx _ ht => rcases hx with rfl | rfl <;> exact .inl (by simp [State.held, hst, ht])
  | _ => subst_vars; exact .inl rfl

/-- The grant stays, is raised by the Arbiter on a request, or is cleared by REL or a reset (R38, R143, R152). -/
theorem step_gnt_cases :
    t.gnt = s.gnt ∨ (t.gnt = true ∧ e = .arbiter ∧ s.st ≠ .idle) ∨
      (t.gnt = false ∧ (e = .reset ∨ (e = .engine ∧ s.st = .rel))) := by
  cases step_effect s t e h with
  | arb he hbusy ht => exact .inr (.inl ⟨by rw [ht], he, hbusy⟩)
  | relOk he hst _ ht | relBad he hst _ ht => exact .inr (.inr ⟨by rw [ht], .inr ⟨he, hst⟩⟩)
  | reset he ht => exact .inr (.inr ⟨by rw [ht]; rfl, .inl he⟩)
  | _ => subst_vars; exact .inl rfl

/-- DONE stays, is set by REL with nothing pending, or is cleared by a command while idle or a reset (R27, R124, R152). -/
theorem step_done_cases :
    t.done = s.done ∨ (t.done = true ∧ e = .engine ∧ s.st = .rel ∧ s.pend = .none) ∨
      (t.done = false ∧ (e = .reset ∨ wrapAcceptedBy Config.params e s t ∨
        ∃ code, commandRejectedBy Config.params e s code)) := by
  cases step_effect s t e h with
  | relOk he hst hpend ht => exact .inr (.inl ⟨by rw [ht], he, hst, hpend⟩)
  | cmdRej code hrejected ht => exact .inr (.inr ⟨by rw [ht], .inr (.inr ⟨code, hrejected⟩)⟩)
  | cmdAcc hidle hword ht => exact .inr (.inr ⟨by rw [ht], .inr (.inl ⟨hidle, hword, by rw [ht]⟩)⟩)
  | reset he ht => exact .inr (.inr ⟨by rw [ht]; rfl, .inl he⟩)
  | _ => subst_vars; exact .inl rfl

/-- ERR and ERRCODE stay, record the error of REL or of a rejected command, or are cleared together by an accepted WRAP or a
reset (R28, R29, R215, R217). -/
theorem step_err_cases :
    (t.err = s.err ∧ t.errCode = s.errCode) ∨
      (t.err = true ∧ (errorReportedBy e s t.errCode ∨ commandRejectedBy Config.params e s t.errCode)) ∨
      (t.err = false ∧ t.errCode = .none ∧ (e = .reset ∨ wrapAcceptedBy Config.params e s t)) := by
  cases step_effect s t e h with
  | relBad he hst hpend ht => rw [ht]; exact .inr (.inl ⟨rfl, .inl ⟨he, hst, hpend, rfl⟩⟩)
  | cmdRej code hrejected ht => rw [ht]; exact .inr (.inl ⟨rfl, .inr hrejected⟩)
  | cmdAcc hidle hword ht => rw [ht]; exact .inr (.inr ⟨rfl, rfl, .inr ⟨hidle, hword, rfl⟩⟩)
  | reset he ht => rw [ht]; exact .inr (.inr ⟨rfl, rfl, .inl he⟩)
  | _ => subst_vars; exact .inl ⟨rfl, rfl⟩

theorem step_buf_wf (hwf : Memory.wf s.buf = true) : Memory.wf t.buf = true := by
  cases step_effect s t e h with
  | init _ _ _ hb ht | update _ _ _ _ _ _ _ hb ht | hw _ _ _ _ _ hb ht => rw [ht]; exact hb hwf
  | reset _ ht => rw [ht]; rfl
  | _ => subst_vars; exact hwf

end

/-! ## The AES agent's frame and the installed key -/

theorem setKeyStep_frame (p : Params) (kl : BitVec 6) (key : KeyField) (s : State) :
    setKeyStep p kl key s = { s with
      aesReq := (setKeyStep p kl key s).aesReq, aesResp := (setKeyStep p kl key s).aesResp
      aesKey := (setKeyStep p kl key s).aesKey } := by
  rcases setKeyStep_cases p kl key s with ⟨-, ht⟩ | ⟨-, -, -, ht⟩ <;> rw [ht]

theorem encryptStep_frame (p : Params) (blk : Block) (s : State) :
    encryptStep p blk s = { s with
      aesReq := (encryptStep p blk s).aesReq, aesResp := (encryptStep p blk s).aesResp
      faults := (encryptStep p blk s).faults } := by
  rcases encryptStep_cases p blk s with ⟨-, ht⟩ | ⟨-, -, -, -, ht⟩ | ⟨kl, k, -, -, -, -, ht⟩ <;> rw [ht]
  rfl

@[simp] theorem setKeyStep_buf (p : Params) (kl : BitVec 6) (key : KeyField) (s : State) :
    (setKeyStep p kl key s).buf = s.buf := by rw [setKeyStep_frame]

@[simp] theorem encryptStep_buf (p : Params) (blk : Block) (s : State) : (encryptStep p blk s).buf = s.buf := by
  rw [encryptStep_frame]

@[simp] theorem encryptStep_aesKey (p : Params) (blk : Block) (s : State) :
    (encryptStep p blk s).aesKey = s.aesKey := by rw [encryptStep_frame]

theorem State.keyAccepted.of_aesKey_eq {p : Params} {s t : State} (h : s.keyAccepted p) (heq : t.aesKey = s.aesKey) :
    t.keyAccepted p := by
  rw [State.keyAccepted, heq]
  exact h

theorem EngineMove.aesKey_eq {p : Params} {s t : State} (hmove : EngineMove p s t) : t.aesKey = s.aesKey := by
  cases hmove <;> (subst_vars; rfl)

/-- The AES agent installs the key of its request only where `keyOk` accepts it (R176). -/
theorem setKeyStep_keyAccepted {p : Params} {s : State} (kl : BitVec 6) (key : KeyField) (h : s.keyAccepted p) :
    (setKeyStep p kl key s).keyAccepted p := by
  rcases setKeyStep_cases p kl key s with ⟨-, ht⟩ | ⟨-, -, -, ht⟩
  · rwa [ht]
  · intro kl' k hk
    rw [ht] at hk
    cases hok : p.keyOk kl (keyBytes kl key) with
    | false => simp [hok] at hk
    | true =>
      obtain ⟨rfl, rfl⟩ : kl = kl' ∧ keyBytes kl key = k := by simpa [hok] using hk
      exact hok

@[simp] theorem arbiterStep_aesKey (s : State) : (arbiterStep s).aesKey = s.aesKey := by
  rcases arbiterStep_cases s with ht | ⟨-, -, ht⟩ <;> rw [ht]

@[simp] theorem hostRead_aesKey (p : Params) (a : BusAddr) (width : Nat) (s : State) :
    (hostRead p a width s).aesKey = s.aesKey := by
  rcases hostRead_cases p a width s with ⟨-, ht⟩ | ⟨x, -, ht⟩ <;> rw [ht]

@[simp] theorem writeTarget_aesKey (v : Word) (s : State) (x : Target) : (writeTarget v s x).aesKey = s.aesKey := by
  rcases writeTarget_cases v s x with ht | ⟨-, ⟨-, ht⟩ | ⟨-, ht⟩ | ⟨k, -, ht⟩ | ⟨w, -, ht⟩⟩ <;> rw [ht]

@[simp] theorem wrapCommand_aesKey (p : Params) (s : State) : (wrapCommand p s).aesKey = s.aesKey := by
  rcases wrapCommand_cases p s with ⟨-, ht⟩ | ⟨-, -, ht⟩ | ⟨-, -, -, -, ht⟩ | ⟨-, -, -, -, ht⟩ <;> rw [ht]

@[simp] theorem illegalCommand_aesKey (s : State) : (illegalCommand s).aesKey = s.aesKey := by
  rcases illegalCommand_cases s with ⟨-, ht⟩ | ⟨-, ht⟩ <;> rw [ht]

theorem exec_decodeCmd_aesKey {v : Word} {s t : State} (h : exec (decodeCmd v) s = .next t) : t.aesKey = s.aesKey := by
  rcases exec_decodeCmd_cases v s with ⟨-, hcmd⟩ | ⟨-, hcmd⟩ | ⟨-, -, hcmd⟩ <;> rw [hcmd] at h <;> cases h
  · rfl
  · exact wrapCommand_aesKey _ s
  · exact illegalCommand_aesKey s

/-- Every step keeps an installed key one that `keyOk` accepted: all but the AES agent's key setup and a reset leave it as
it is, and a reset removes it (R37, R240). -/
theorem step_keyAccepted {s t : State} {e : Event} (h : step (s.sched e) = .next t)
    (hkey : s.keyAccepted Config.params) : t.keyAccepted Config.params := by
  rcases step_cases s e with rfl | ⟨-, ⟨-, hnext⟩ | ⟨kl, key, -, hnext⟩ | ⟨blk, -, hnext⟩⟩ | ⟨-, hnext⟩ |
    ⟨a, width, -, hnext⟩ | ⟨a, width, v, -, -, hnext⟩ | ⟨a, width, v, -, -, hnext⟩ |
    ⟨a, width, v, x, -, -, -, hnext⟩ | ⟨-, hnext⟩
  · obtain rfl | ⟨-, hmove⟩ := step_engine_next h
    · exact hkey
    · exact hkey.of_aesKey_eq hmove.aesKey_eq
  all_goals rw [hnext] at h
  on_goal 7 => exact hkey.of_aesKey_eq (exec_decodeCmd_aesKey h)
  all_goals cases h
  · exact hkey
  · exact setKeyStep_keyAccepted kl key hkey
  · exact hkey.of_aesKey_eq (encryptStep_aesKey _ blk s)
  · exact hkey.of_aesKey_eq (arbiterStep_aesKey s)
  · exact hkey.of_aesKey_eq (hostRead_aesKey _ a width s)
  · exact hkey
  · exact hkey.of_aesKey_eq (writeTarget_aesKey v s x)
  · exact nofun

/-! ## The Host's reads and the KEK -/

/-- No value that a read returns depends on the KEK (R119). -/
theorem readValue_kek (s : State) (kek : Vector Word 8) (x : Target) :
    readValue { s with kek := kek } x = readValue s x := by
  cases x <;> rfl

theorem readDraws_kek (s : State) (kek : Vector Word 8) (x : Target) :
    readDraws { s with kek := kek } x = readDraws s x := by
  cases x <;> rfl

/-- A read does the same whatever the KEK holds, and leaves it there. -/
theorem hostRead_kek (p : Params) (a : BusAddr) (width : Nat) (s : State) (kek : Vector Word 8) :
    hostRead p a width { s with kek := kek } = { hostRead p a width s with kek := kek } := by
  cases h : access p a width with
  | none => simp [hostRead, h, State.refuse]
  | some x => simp [hostRead, h, readValue_kek, readDraws_kek]

/-! ## The obligations -/

/-- Settles O54: each move of the Engine and each step of another agent keeps the invariants, case by case. -/
theorem everyStepKeepsTheControllerInvariants : Obligations.EveryStepKeepsTheControllerInvariants := by
  intro s t h hstep
  obtain ⟨e, s', heq, hs'⟩ := step_eq_sched s
  have h' : CtrlInv Config.params s' := by rw [hs']; exact { h with }
  exact h'.keeps_step (heq ▸ hstep)

/-- Settles O22: a read's value and its draws are the same under any other KEK. -/
theorem hostReadsDoNotRevealTheKek : Obligations.HostReadsDoNotRevealTheKek := by
  intro s t kek' a width h
  rw [step_hostRead] at h ⊢
  cases h
  rw [hostRead_kek]

/-- Settles O48: an inserted fault keeps the others, a reset keeps them all, and no step clears the mark. -/
theorem faultsAndRefusalAreKept : Obligations.FaultsAndRefusalAreKept := by
  intro s t h
  obtain ⟨e, s', heq, hs'⟩ := step_eq_sched s
  rw [heq] at h
  have hfaults := step_faults_kept h
  have hrefused := step_refused_kept h
  rw [hs'] at hfaults hrefused
  exact ⟨hfaults, hrefused⟩

/-- Settles O49: the Host's writes are dropped, and no other agent writes an input. -/
theorem inputsFixedWhileBusy : Obligations.InputsFixedWhileBusy :=
  fun _ _ _ hbusy hreset h => step_inputs_of_busy h hbusy hreset

/-- Settles O50: none of these elements is in the frame of another agent's step. -/
theorem onlyTheEngineMovesABusyController : Obligations.OnlyTheEngineMovesABusyController := by
  intro s t e hbusy hengine hreset h
  rw [step_frame_of_busy h hbusy hengine hreset]
  exact ⟨rfl, rfl, rfl, rfl, rfl, rfl, rfl, rfl, rfl⟩

/-- Settles O51: apart from its one rise and its two falls `held` stays. -/
theorem heldRisesAtAcqFallsAtRel : Obligations.HeldRisesAtAcqFallsAtRel :=
  fun _ _ _ h => rises_and_falls (step_held_cases h)

/-- Settles O52, flag by flag; ERRCODE moves with ERR. -/
theorem grantAndFlagsChangeOnlyByTheirRules : Obligations.GrantAndFlagsChangeOnlyByTheirRules := by
  intro s t e h
  obtain ⟨hgntUp, hgntDown⟩ := rises_and_falls (step_gnt_cases h)
  obtain ⟨hdoneUp, hdoneDown⟩ := rises_and_falls (step_done_cases h)
  have herr := step_err_cases h
  obtain ⟨herrUp, herrDown⟩ :=
    rises_and_falls (herr.imp And.left (.imp_right fun ⟨hcleared, _, hcause⟩ => ⟨hcleared, hcause⟩))
  have hcode (hne : t.errCode ≠ s.errCode) := herr.resolve_left fun hkept => hne hkept.2
  exact ⟨hgntUp, hgntDown, hdoneUp, hdoneDown, herrUp, herrDown, hcode⟩

/-- Settles O53: every store keeps the canonical form, and only the AES agent's key setup installs a key. -/
theorem everyStepKeepsBufCanonicalAndKeysAccepted : Obligations.EveryStepKeepsBufCanonicalAndKeysAccepted := by
  intro s t h
  obtain ⟨e, s', heq, hs'⟩ := step_eq_sched s
  rw [heq] at h
  have hwf := step_buf_wf h
  have hkey := step_keyAccepted h
  rw [hs'] at hwf hkey
  exact ⟨hwf, hkey⟩

/-- Settles O8: the definition's own values; BUF is the empty list of written bytes. -/
theorem resetValues : Obligations.ResetValues := by
  have hkek (k : Fin 8) : State.reset.kek[k] = 0x00000000 := by simp [State.reset]
  have hb (k : Fin 16) : State.reset.b[k] = 0x00 := by simp [State.reset]
  exact ⟨rfl, rfl, hkek, rfl, rfl, rfl, rfl, rfl, rfl, rfl, hb, fun _ => rfl, rfl, rfl, rfl, rfl, rfl, rfl⟩

/-- Settles O10: the state at the start of a run is what a reset makes of it. -/
theorem resetMeetsTheInvariants : Obligations.ResetMeetsTheInvariants :=
  ⟨resetStep_ctrlInv (s := State.reset) _ ⟨rfl, rfl⟩, nofun⟩

/-- Settles O30: the frames of the two steps, BUF being in both. -/
theorem aesFrame : Obligations.AesFrame := by
  intro s t kl key blk
  refine ⟨fun h => ?_, fun h => ?_, ?_⟩
  · cases h; exact setKeyStep_frame _ kl key s
  · cases h; exact encryptStep_frame _ blk s
  · rintro (h | h) a
    · cases h; rw [setKeyStep_buf]
    · cases h; rw [encryptStep_buf]

/-- Settles O44, by the two branches of the Arbiter's condition. -/
theorem arbiterGrantsARequest : Obligations.ArbiterGrantsARequest := by
  intro s
  have hstep : step (s.sched .arbiter) = .next (arbiterStep s) := rfl
  rw [hstep]
  refine ⟨fun hbusy hgnt => ?_, fun hheld => ?_⟩
  · simp [arbiterStep, hbusy, hgnt]
  · rcases arbiterStep_cases s with hsame | ⟨hbusy, hgnt, -⟩
    · rw [hsame]
    · simp [hbusy, hgnt] at hheld

end Sys2Proof.Machine

/-! # Proofs of the memory statements (spec/20_memory.md)

First which accesses are admitted, what an admitted access does while idle and while BUSY, and a word of BUF read after
it is written; then the key operand and the counter as byte strings; then one theorem per obligation. -/

namespace Sys2Proof.Machine

/-! ## Which accesses are admitted -/

/-- An offset selects nothing exactly where it lies beyond the window (R67, R68). -/
theorem target_eq_none_iff (p : Params) (off : Nat) : target p off = none ↔ p.windowBytes ≤ off := by
  have hwindow : 0x100 ≤ p.windowBytes := by rw [Params.windowBytes]; omega
  unfold target
  repeat' split
  all_goals
    simp only [reduceCtorEq, false_iff, true_iff, not_le]
    omega

/-- The accesses that are refused: of another width, misaligned, or outside the window (R64, R110, R111). -/
theorem access_reg_eq_none_iff (p : Params) (off width : Nat) :
    access p (.reg off) width = none ↔ width ≠ 4 ∨ off % 4 ≠ 0 ∨ p.windowBytes ≤ off := by
  by_cases hform : width = 4 ∧ off % 4 = 0
  · simp [access, busOffset, hform, target_eq_none_iff]
  · simp only [access, busOffset, if_neg hform, true_iff]
    omega

/-- Every aligned offset inside the window selects something (R67, R92). -/
theorem access_reg_of_inside (p : Params) {off : Nat} (haligned : off % 4 = 0) (hinside : off < p.windowBytes) :
    ∃ t, access p (.reg off) 4 = some t := by
  rw [← Option.ne_none_iff_exists', Ne, access_reg_eq_none_iff]
  omega

/-! ## The step of an admitted write -/

/-- The bytes of a CMD word are read back as the command of that word (R62, R81). -/
theorem decode_cmd_wordBytes (v : Word) : decode .cmd (wordBytes v) = .ok (decodeCmd v, []) := by
  rw [wordBytes, decode, ofLanes_lanes]

/-- A write that selects CMD runs the command of its word (R111). -/
theorem step_hostWrite_of_cmd (s : State) {a : BusAddr} {width : Nat} (v : Word)
    (h : access Config.params a width = some .cmd) :
    step (s.sched (.hostWrite a width v)) = exec (decodeCmd v) s :=
  step_sched_of_instrOf (by rw [instrOf_write_cmd _ v s h, decode_cmd_wordBytes, decodedInstr_ok])

/-- Any other admitted write takes the effect of its target (R111). -/
theorem step_hostWrite_of_access (s : State) {a : BusAddr} {width : Nat} {t : Target} (v : Word)
    (h : access Config.params a width = some t) (hcmd : t ≠ .cmd) :
    step (s.sched (.hostWrite a width v)) = .next (writeTarget v s t) := by
  cases t with
  | cmd => exact absurd rfl hcmd
  | _ => simp [step_sched, instrOf, plainStep, hostWrite, h]

/-- An idle write of a word of BUF stores its four bytes (R122). -/
theorem step_hostWrite_buf {s : State} (hidle : s.st = .idle) {w : Nat} (hw : 4 * w < Config.params.bufBytes)
    (v : Word) :
    step (s.sched (.hostWrite (.reg (0x100 + 4 * w)) 4 v)) = .next (s.writeBuf (4 * w) (wordBytes v)) := by
  rw [step_hostWrite_of_access s v (access_reg_buf _ hw) nofun, writeTarget, writeBufWord,
    (State.busy_eq_false_iff s).2 hidle]
  rfl

/-! ## Accesses while BUSY -/

/-- While BUSY a write to any target but CMD is dropped (R116, R118, R120, R122). -/
theorem writeTarget_of_busy {s : State} (h : s.st ≠ .idle) (v : Word) (t : Target) : writeTarget v s t = s :=
  (writeTarget_cases v s t).resolve_right fun ⟨hidle, _⟩ => h hidle

/-- While BUSY every command is dropped (R126). -/
theorem exec_decodeCmd_of_busy {s : State} (h : s.st ≠ .idle) (v : Word) : exec (decodeCmd v) s = .next s := by
  have hbusy := (State.busy_iff s).2 h
  rcases exec_decodeCmd_cases v s with ⟨-, hnop⟩ | ⟨-, hwrap⟩ | ⟨-, -, hillegal⟩
  · exact hnop
  · rw [hwrap, wrapCommand, if_pos hbusy]
  · rw [hillegal, illegalCommand, if_pos hbusy]

/-- While BUSY an admitted write, a command among them, changes nothing. -/
theorem step_hostWrite_of_busy {s : State} (h : s.st ≠ .idle) {a : BusAddr} {width : Nat} {t : Target} (v : Word)
    (hacc : access Config.params a width = some t) : step (s.sched (.hostWrite a width v)) = .next s := by
  by_cases hcmd : t = .cmd
  · rw [step_hostWrite_of_cmd s v (hcmd ▸ hacc), exec_decodeCmd_of_busy h]
  · rw [step_hostWrite_of_access s v hacc hcmd, writeTarget_of_busy h]

/-- While BUSY a word of BUF reads as zero and no draw is made (R121). -/
theorem step_hostRead_buf_of_busy {s : State} (h : s.st ≠ .idle) {w : Nat} (hw : 4 * w < Config.params.bufBytes) :
    step (s.sched (.hostRead (.reg (0x100 + 4 * w)) 4)) = .next { s with busData := some 0x00000000 } := by
  have hbusy := (State.busy_iff s).2 h
  rw [step_hostRead_of_access s (access_reg_buf _ hw), readValue, readDraws, readBufWord, if_pos hbusy, if_pos hbusy]
  rfl

/-! ## A word of BUF, written and read back -/

/-- A word is given by its four lanes (R62). -/
theorem word_eq_of_lanes {x y : Word} (h : ∀ b, b < 4 → lane x b = lane y b) : x = y := by
  rw [← ofLanes_lanes x, ← ofLanes_lanes y, h 0 (by decide), h 1 (by decide), h 2 (by decide), h 3 (by decide)]

/-- Byte `b` of a word just written is its lane `b` (R62, R122). -/
theorem Memory.read_writeBytes_wordBytes (m : Memory) (a : Nat) (v : Word) {b : Nat} (hb : b < 4) :
    Memory.read (Memory.writeBytes m a (wordBytes v)) (a + b) = some (lane v b) := by
  have hlane : (wordBytes v)[b]? = some (lane v b) := by interval_cases b <;> rfl
  have hinside : a ≤ a + b ∧ a + b < a + (wordBytes v).length := ⟨by omega, Nat.add_lt_add_left hb a⟩
  rw [Memory.read_writeBytes, if_pos hinside, Nat.add_sub_cancel_left, hlane]

/-- A read of a written word of BUF makes no draw (R121). -/
theorem step_hostRead_buf_of_written {s : State} {w : Nat} (hw : 4 * w < Config.params.bufBytes)
    (hwritten : Memory.written s.buf (4 * w) 4 = true) :
    step (s.sched (.hostRead (.reg (0x100 + 4 * w)) 4)) = .next { s with busData := some (readBufWord w s) } := by
  have hdraws : readDraws s (.buf w) = 0 := by simp [readDraws, State.drawCount, hwritten]
  rw [step_hostRead_of_access s (access_reg_buf _ hw), hdraws]
  rfl

/-- An idle read returns the word whose lanes the buffer holds (R62, R121). -/
theorem readBufWord_eq_of_reads {s : State} (hidle : s.st = .idle) {w : Nat} {v : Word}
    (h : ∀ b, b < 4 → Memory.read s.buf (4 * w + b) = some (lane v b)) : readBufWord w s = v :=
  word_eq_of_lanes fun b hb => (lane_readBufWord hidle w hb).trans (State.byteAt_of_written b (h b hb))

/-! ## The key operand -/

/-- Below the key length the KEY field holds the KEK bytes in lane order (R63, R93). -/
theorem keyField_of_lt (kek : Vector Word 8) {kl : BitVec 6} {m : Nat} (hm : m < 32) (h : m < kl.toNat) :
    (keyField kek kl)[m] = lane kek[m / 4] (m % 4) := by
  rw [keyField, getElem_vec, if_pos h, kekByte, getElem?_pos kek (m / 4) (by omega)]
  rfl

/-- From the key length on the KEY field is zero (R90). -/
theorem keyField_of_ge (kek : Vector Word 8) {kl : BitVec 6} {m : Nat} (hm : m < 32) (h : kl.toNat ≤ m) :
    (keyField kek kl)[m] = 0 := by
  rw [keyField, getElem_vec, if_neg (Nat.not_lt.2 h)]

/-- The KEY field is padded as R90 asks, whatever the length. -/
theorem keyPadded_keyField (kek : Vector Word 8) (kl : BitVec 6) : keyPadded kl (keyField kek kl) = true := by
  rw [keyPadded, List.all_eq_true]
  intro x hx
  obtain ⟨k, hk, rfl⟩ := List.mem_drop_iff_getElem.1 hx
  rw [Vector.length_toList] at hk
  rw [Vector.getElem_toList, keyField_of_ge kek (by omega) (Nat.le_add_right _ _)]
  rfl

/-! ## 64-bit numbers as bytes, and the counter -/

/-- The bytes of a 64-bit number are put together to that number (R12). -/
@[simp] theorem be64_be64inv (v : BitVec 64) : be64 (be64inv v) = v := by
  simp only [be64, be64inv, getElem_vec]
  iterate 7 rw [BitVec.extractLsb'_append_extractLsb'_eq_extractLsb']
  · exact BitVec.extractLsb'_eq_self
  all_goals rfl

/-- The exclusive-or of two numbers is taken byte by byte. -/
theorem be64_zipWith_xor (x y : Slot) : be64 (Vector.zipWith (· ^^^ ·) x y) = be64 x ^^^ be64 y := by
  simp only [be64, Vector.getElem_zipWith, ← BitVec.xor_append]

/-- The zero-extended counter has zeros in its first four bytes. -/
theorem be64inv_setWidth_of_lt (t : Word) {k : Nat} (hk : k < 4) : (be64inv (t.setWidth 64))[k] = 0 := by
  rw [be64inv, getElem_vec]
  apply BitVec.eq_of_getLsbD_eq
  intro i hi
  have habove : 32 ≤ 8 * (7 - k) + i := by omega
  simp [BitVec.getLsbD_of_ge t _ habove]

/-- The zero-extended counter has the counter in its last four bytes. -/
theorem be64inv_setWidth_of_ge (t : Word) {k : Nat} (hk : k < 8) (h : 4 ≤ k) :
    (be64inv (t.setWidth 64))[k] = t.extractLsb' (8 * (7 - k)) 8 := by
  rw [be64inv, getElem_vec]
  apply BitVec.eq_of_getLsbD_eq
  intro i hi
  have hbelow : 8 * (7 - k) + i < 64 := by omega
  simp [hi, hbelow]

/-- The fold takes the exclusive-or of A's bytes and those of the zero-extended counter (R194, R195). -/
theorem foldCounter_eq_zipWith (b : Block) (t : Word) :
    foldCounter b t = Vector.zipWith (· ^^^ ·) (hiSlot b) (be64inv (t.setWidth 64)) := by
  apply Vector.ext
  intro k hk
  rw [Vector.getElem_zipWith]
  by_cases h : k < 4
  · rw [be64inv_setWidth_of_lt t h]
    interval_cases k <;> simp [foldCounter, hiSlot]
  · rw [be64inv_setWidth_of_ge t hk (Nat.not_lt.1 h)]
    interval_cases k <;> simp [foldCounter, hiSlot]

/-! ## Slots that BUF does not have -/

/-- FORM stops at a slot above N_MAX (log entry 11). -/
theorem formStep_stops {p : Params} {s : State} (hfree : s.faults.isEmpty = true) (hst : s.st = .form)
    (hreq : s.aesReq = none) (hresp : s.aesResp = none) (hout : p.nMax < s.i.toNat) :
    formStep p s = .fault .bufRange := by
  have henabled : (s.engineIn .form && s.portEmpty) = true := by simp [hfree, hst, hreq, hresp]
  rw [formStep, if_pos henabled, if_pos hout]

/-- UPDATE stops at a slot above N_MAX (log entry 11). -/
theorem updateStep_stops {p : Params} {s : State} (hfree : s.faults.isEmpty = true) (hst : s.st = .update)
    (hout : p.nMax < s.i.toNat) : updateStep p s = .fault .bufRange := by
  have henabled : s.engineIn .update = true := (State.engineIn_iff s .update).2 ⟨hfree, hst⟩
  rw [updateStep, if_pos henabled, if_pos hout]

/-! ## The obligations -/

/-- Settles O13: the word is written, so no draw is made, and each lane is its byte. -/
theorem hostReadsWrittenBufWord : Obligations.HostReadsWrittenBufWord := by
  intro s w v0 v1 v2 v3 hidle hw h0 h1 h2 h3
  have hwritten : Memory.written s.buf (4 * w) 4 = true := by
    rw [Memory.written_iff]
    intro b hb
    interval_cases b <;> simp [h0, h1, h2, h3]
  have hlane (b : Nat) {x : Byte} (hb : b < 4) (hx : Memory.read s.buf (4 * w + b) = some x) :
      lane (readBufWord w s) b = x :=
    (lane_readBufWord hidle w hb).trans (State.byteAt_of_written b hx)
  exact ⟨readBufWord w s, step_hostRead_buf_of_written hw hwritten,
    hlane 0 (by decide) h0, hlane 1 (by decide) h1, hlane 2 (by decide) h2, hlane 3 (by decide) h3⟩

/-- Settles O15: the read's target is a word of BUF, and every admitted write is dropped. -/
theorem busyEngineOwnsTheInputs : Obligations.BusyEngineOwnsTheInputs := by
  intro s off v hbusy haligned hinside
  refine ⟨fun hbuf => ?_, ?_⟩
  · obtain ⟨w, rfl⟩ : ∃ w, off = 0x100 + 4 * w := ⟨(off - 0x100) / 4, by omega⟩
    exact step_hostRead_buf_of_busy hbusy (by rw [Params.windowBytes] at hinside; omega)
  · obtain ⟨t, hacc⟩ := access_reg_of_inside Config.params haligned hinside
    exact step_hostWrite_of_busy hbusy v hacc

/-- Settles O17: the write stores the word's four bytes, and no other byte is among them. -/
theorem hostWritesBufWord : Obligations.HostWritesBufWord := by
  intro s w v hidle hw
  exact ⟨_, step_hostWrite_buf hidle hw v, rfl, fun b hb => Memory.read_writeBytes_wordBytes s.buf (4 * w) v hb,
    fun a ha => Memory.read_writeBytes_other s.buf (wordBytes v) ha⟩

/-- Settles O18: the bytes just written are written, and put together they are the word. -/
theorem bufWordReadsBack : Obligations.BufWordReadsBack := by
  intro s t w v hidle hw hwrite
  rw [step_hostWrite_buf hidle hw] at hwrite
  cases hwrite
  have hstill : (s.writeBuf (4 * w) (wordBytes v)).st = .idle := hidle
  have hwritten : Memory.written (s.writeBuf (4 * w) (wordBytes v)).buf (4 * w) 4 = true :=
    Memory.written_writeBytes_same s.buf (4 * w) (wordBytes v)
  have hword : readBufWord w (s.writeBuf (4 * w) (wordBytes v)) = v :=
    readBufWord_eq_of_reads hstill fun b hb => Memory.read_writeBytes_wordBytes s.buf (4 * w) v hb
  rw [step_hostRead_buf_of_written hw hwritten, hword]

/-- Settles O21, by the two cases of a read: refused or admitted. -/
theorem hostReadsHaveNoSideEffects : Obligations.HostReadsHaveNoSideEffects := by
  intro s a width
  refine ⟨_, step_hostRead s a width, ?_⟩
  rcases hostRead_cases Config.params a width s with ⟨-, hrefused⟩ | ⟨x, -, hadmitted⟩
  · rw [hrefused]
    exact ⟨rfl, fun hdata => absurd rfl hdata⟩
  · rw [hadmitted]
    exact ⟨rfl, fun _ => rfl⟩

/-- Settles O31: the KEY field byte by byte, and its padding. -/
theorem setKeyRequestCarriesTheKek : Obligations.SetKeyRequestCarriesTheKek := by
  intro s
  refine ⟨keyField s.kek s.kekLen, rfl, fun m hm _ => keyField_of_lt s.kek m.isLt hm,
    fun m hm => keyField_of_ge s.kek m.isLt hm, fun hlen => ?_⟩
  simp [Instr.wellFormed, hlen, keyPadded_keyField]

/-- Settles O47: the fold is the bytewise exclusive-or with the bytes of the zero-extended counter. -/
theorem foldIsA64BitXor : Obligations.FoldIsA64BitXor := by
  intro b t
  rw [foldCounter_eq_zipWith, be64_zipWith_xor, be64_be64inv]

/-- Settles O19: such an access selects nothing. -/
theorem undefinedAccessesRefused : Obligations.UndefinedAccessesRefused := by
  intro s off width v hundefined
  have hnone := (access_reg_eq_none_iff Config.params off width).2 hundefined
  exact ⟨step_hostWrite_of_refused s v hnone, step_hostRead_of_refused s hnone⟩

/-- Settles O36: both steps check the slot before they touch it. -/
theorem stopsOutsideTheBuffer : Obligations.StopsOutsideTheBuffer :=
  fun _ hfree hout => ⟨fun hst hreq hresp => formStep_stops hfree hst hreq hresp hout,
    fun hst => updateStep_stops hfree hst hout⟩

end Sys2Proof.Machine

/-! # Proofs of the encoding statements (spec/30_encoding.md)

First the rules of each format, in both directions: the bytes of an instruction decode to it, and bytes that decode are
those of an instruction. Then the STATUS word laid out field by field; then one theorem per obligation. -/

namespace Sys2Proof.Machine

/-! ## Bytes put together from their fields -/

/-- A bit vector whose upper field is zero is its lower field, zero-extended. -/
theorem eq_setWidth_of_upper_zero {m n : Nat} {x : BitVec (m + n)} (h : x.extractLsb' n m = 0#m) :
    x = (x.extractLsb' 0 n).setWidth (m + n) := by
  calc x = x.extractLsb' n m ++ x.extractLsb' 0 n := BitVec.extractLsb'_append_extractLsb'.symm
    _ = 0#m ++ x.extractLsb' 0 n := by rw [h]
    _ = (x.extractLsb' 0 n).setWidth (m + n) := by
      rw [BitVec.setWidth_eq_append (Nat.le_add_left n m)]
      simp

/-- A request header is put together from its fields: zero [7:3], MODE [2] and ROP [1:0]. -/
theorem reqHeader_fields (h : Byte) : h.extractLsb' 3 5 ++ h.extractLsb' 2 1 ++ h.extractLsb' 0 2 = h := by
  rw [BitVec.extractLsb'_append_extractLsb'_eq_extractLsb' (by rfl)]
  exact BitVec.extractLsb'_append_extractLsb' (w := 6) (len := 2)

/-! ## CMD words (R81) -/

theorem decodeCmd_of_ne {v : Word} (h0 : v ≠ 0) (h1 : v ≠ 1) : decodeCmd v = .illegalCmd v :=
  (if_neg h0).trans (if_neg h1)

/-- A CMD word means a command whose bytes are the word's, and the command is of the CMD format. -/
theorem decodeCmd_format_encode (v : Word) : (decodeCmd v).format = .cmd ∧ encode (decodeCmd v) = wordBytes v := by
  by_cases h0 : v = 0
  · subst h0
    exact ⟨rfl, rfl⟩
  by_cases h1 : v = 1
  · subst h1
    exact ⟨rfl, rfl⟩
  rw [decodeCmd_of_ne h0 h1]
  exact ⟨rfl, rfl⟩

/-- The four bytes of a CMD word are read as that word, whatever follows them (R62). -/
theorem decode_cmd_wordBytes_append (v : Word) (rest : List Byte) :
    decode .cmd (wordBytes v ++ rest) = .ok (decodeCmd v, rest) := by
  change Except.ok (decodeCmd (ofLanes (lane v 0) (lane v 1) (lane v 2) (lane v 3)), rest) = _
  rw [ofLanes_lanes]

theorem wordBytes_ofLanes (b0 b1 b2 b3 : Byte) : wordBytes (ofLanes b0 b1 b2 b3) = [b0, b1, b2, b3] := by
  obtain ⟨h0, h1, h2, h3⟩ := lane_ofLanes b0 b1 b2 b3
  rw [wordBytes, h0, h1, h2, h3]

/-- Bytes that decode as a command start with the four bytes of a word. -/
theorem decode_cmd_eq_ok {bs rest : List Byte} {i : Instr} (h : decode .cmd bs = .ok (i, rest)) :
    ∃ v, i = decodeCmd v ∧ bs = wordBytes v ++ rest := by
  match bs, h with
  | b0 :: b1 :: b2 :: b3 :: bs, h =>
    cases h
    exact ⟨ofLanes b0 b1 b2 b3, rfl, by rw [wordBytes_ofLanes]; rfl⟩

/-! ## State codes (R88) -/

/-- The instruction that a controller state enables (R88, R140). -/
def FsmState.instr : FsmState → Instr
  | .idle => .fsmIdle
  | .acq => .fsmAcq
  | .setkey => .fsmSetkey
  | .init => .fsmInit
  | .form => .fsmForm
  | .encwait => .fsmEncwait
  | .update => .fsmUpdate
  | .rel => .fsmRel

theorem FsmState.instr_format (x : FsmState) : x.instr.format = .fsmState := by cases x <;> rfl

theorem FsmState.encode_instr (x : FsmState) : encode x.instr = [x.code.setWidth 8] := by cases x <;> rfl

theorem FsmState.code_toNat_lt (x : FsmState) : (x.code.setWidth 8).toNat < 8 := by cases x <;> decide

/-- The byte of a state's code is read as the step of that state. -/
theorem decode_fsmState_code (x : FsmState) (rest : List Byte) :
    decode .fsmState (x.code.setWidth 8 :: rest) = .ok (x.instr, rest) := by
  cases x <;> rfl

/-- The codes that decode are those of the eight controller states. -/
theorem decodeState_eq_ok {c : BitVec 4} {i : Instr} (h : decodeState c = .ok i) :
    ∃ x : FsmState, i = x.instr ∧ c = x.code := by
  unfold decodeState at h
  split_ifs at h with h0 h1 h2 h3 h4 h5 h6 h7 <;> cases h
  · exact ⟨.idle, rfl, h0⟩
  · exact ⟨.acq, rfl, h1⟩
  · exact ⟨.setkey, rfl, h2⟩
  · exact ⟨.init, rfl, h3⟩
  · exact ⟨.form, rfl, h4⟩
  · exact ⟨.encwait, rfl, h5⟩
  · exact ⟨.update, rfl, h6⟩
  · exact ⟨.rel, rfl, h7⟩

/-- Bytes that decode as a state code start with the byte of a state's code. -/
theorem decode_fsmState_eq_ok {bs rest : List Byte} {i : Instr} (h : decode .fsmState bs = .ok (i, rest)) :
    ∃ x : FsmState, i = x.instr ∧ bs = x.code.setWidth 8 :: rest := by
  match bs, h with
  | c :: bs, h =>
    simp only [decode, decodeStateByte] at h
    split at h
    case isTrue hupper =>
      cases hcode : decodeState (c.extractLsb' 0 4) with
      | error e => rw [hcode] at h; cases h
      | ok j =>
        rw [hcode] at h
        cases h
        obtain ⟨x, hi, hx⟩ := decodeState_eq_ok hcode
        have hc : c = (c.extractLsb' 0 4).setWidth 8 := eq_setWidth_of_upper_zero (m := 4) (n := 4) hupper
        exact ⟨x, hi, by rw [hc, hx]⟩
    case isFalse => cases h

/-! ## AES requests (R89, R90) -/

/-- The instruction that a message in the request register is (R89, R90). -/
def AesReq.instr : AesReq → Instr
  | .setKey klen key => .aesSetkey klen key
  | .encrypt blk => .aesEncrypt blk

theorem AesReq.instr_format (q : AesReq) : q.instr.format = .aesReq := by cases q <;> rfl

theorem AesReq.encode_instr (q : AesReq) : encode q.instr = reqBytes q := by cases q <;> rfl

/-- A vector is taken off the front of the bytes exactly where they start with its bytes. -/
theorem takeBytes_eq_some_iff {n : Nat} {bs rest : List Byte} {v : Vector Byte n} :
    takeBytes n bs = some (v, rest) ↔ bs = v.toList ++ rest := by
  refine ⟨fun h => ?_, fun h => by rw [h, takeBytes_append]⟩
  unfold takeBytes at h
  split at h
  · cases h
    exact (List.take_append_drop n bs).symm
  · cases h

theorem klenByte_upper (klen : BitVec 6) : (klen.setWidth 8).extractLsb' 6 2 = 0#2 := by
  rw [BitVec.setWidth_eq_append (by decide)]
  exact BitVec.extractLsb'_append_eq_left

theorem klenByte_lower (klen : BitVec 6) : (klen.setWidth 8).extractLsb' 0 6 = klen := by
  rw [BitVec.extractLsb'_setWidth_of_le (by decide), BitVec.extractLsb'_eq_self]

/-- The bytes of a message are read as the instruction it is, whatever follows them. -/
theorem decode_aesReq_reqBytes (q : AesReq) (rest : List Byte) :
    decode .aesReq (reqBytes q ++ rest) = .ok (q.instr, rest) := by
  cases q with
  | setKey klen key =>
    change decodeSetkey (klen.setWidth 8 :: (key.toList ++ rest)) = _
    rw [decodeSetkey, if_pos (klenByte_upper klen), takeBytes_append, klenByte_lower]
    rfl
  | encrypt blk =>
    change decodeEncrypt (blk.toList ++ rest) = _
    rw [decodeEncrypt, takeBytes_append]
    rfl

/-- A key-setup payload that decodes is a KLEN byte and the KEY bytes. -/
theorem decodeSetkey_eq_ok {bs rest : List Byte} {i : Instr} (h : decodeSetkey bs = .ok (i, rest)) :
    ∃ q : AesReq, i = q.instr ∧ 0x00#8 :: bs = reqBytes q ++ rest := by
  match bs, h with
  | k :: bs, h =>
    rw [decodeSetkey] at h
    split at h
    case isTrue hupper =>
      split at h
      case h_1 key rest' htake =>
        cases h
        have hk : k = (k.extractLsb' 0 6).setWidth 8 := eq_setWidth_of_upper_zero (m := 2) (n := 6) hupper
        refine ⟨.setKey (k.extractLsb' 0 6) key, rfl, ?_⟩
        rw [reqBytes, ← hk, takeBytes_eq_some_iff.1 htake]
        rfl
      case h_2 => cases h
    case isFalse => cases h

/-- An encryption payload that decodes is the BLK bytes. -/
theorem decodeEncrypt_eq_ok {bs rest : List Byte} {i : Instr} (h : decodeEncrypt bs = .ok (i, rest)) :
    ∃ q : AesReq, i = q.instr ∧ 0x01#8 :: bs = reqBytes q ++ rest := by
  rw [decodeEncrypt] at h
  split at h
  case h_1 blk rest' htake =>
    cases h
    exact ⟨.encrypt blk, rfl, by rw [takeBytes_eq_some_iff.1 htake]; rfl⟩
  case h_2 => cases h

/-- Bytes that decode as an AES request start with the bytes of a message. -/
theorem decode_aesReq_eq_ok {bs rest : List Byte} {i : Instr} (h : decode .aesReq bs = .ok (i, rest)) :
    ∃ q : AesReq, i = q.instr ∧ bs = reqBytes q ++ rest := by
  match bs, h with
  | header :: bs, h =>
    have hfields := reqHeader_fields header
    simp only [decode, decodeAesReq] at h
    split_ifs at h with hzero hmode hsetkey hencrypt
    · rw [not_not.1 hzero, not_not.1 hmode, hsetkey] at hfields
      rw [← hfields]
      exact decodeSetkey_eq_ok h
    · rw [not_not.1 hzero, not_not.1 hmode, hencrypt] at hfields
      rw [← hfields]
      exact decodeEncrypt_eq_ok h

/-- A message's header is 0x00 or 0x01. -/
theorem reqBytes_header_lt (q : AesReq) : ∃ (header : Byte) (payload : List Byte),
    reqBytes q = header :: payload ∧ header.toNat < 2 := by
  cases q with
  | setKey klen key => exact ⟨0x00, _, rfl, by decide⟩
  | encrypt blk => exact ⟨0x01, _, rfl, by decide⟩

/-! ## Every format -/

/-- A well-formed instruction is read back from its bytes (R80, R95). -/
theorem decode_encode {i : Instr} (h : i.wellFormed = true) (rest : List Byte) :
    decode i.format (encode i ++ rest) = .ok (i, rest) := by
  cases i with
  | nop => exact decode_cmd_wordBytes_append 0 rest
  | wrap => exact decode_cmd_wordBytes_append 1 rest
  | illegalCmd w =>
    have hw : w ≠ 0 ∧ w ≠ 1 := by simpa [Instr.wellFormed] using h
    exact (decode_cmd_wordBytes_append w rest).trans (by rw [decodeCmd_of_ne hw.1 hw.2])
  | aesSetkey klen key => exact decode_aesReq_reqBytes (.setKey klen key) rest
  | aesEncrypt blk => exact decode_aesReq_reqBytes (.encrypt blk) rest
  | fsmIdle => exact decode_fsmState_code .idle rest
  | fsmAcq => exact decode_fsmState_code .acq rest
  | fsmSetkey => exact decode_fsmState_code .setkey rest
  | fsmInit => exact decode_fsmState_code .init rest
  | fsmForm => exact decode_fsmState_code .form rest
  | fsmEncwait => exact decode_fsmState_code .encwait rest
  | fsmUpdate => exact decode_fsmState_code .update rest
  | fsmRel => exact decode_fsmState_code .rel rest

/-- Bytes that decode are the encoding of an instruction of their format (R80, R95). -/
theorem encode_of_decode {f : Format} {bs rest : List Byte} {i : Instr} (h : decode f bs = .ok (i, rest)) :
    i.format = f ∧ bs = encode i ++ rest := by
  cases f with
  | cmd =>
    obtain ⟨v, rfl, hbs⟩ := decode_cmd_eq_ok h
    obtain ⟨hformat, hencode⟩ := decodeCmd_format_encode v
    exact ⟨hformat, by rw [hbs, hencode]⟩
  | aesReq =>
    obtain ⟨q, rfl, hbs⟩ := decode_aesReq_eq_ok h
    exact ⟨q.instr_format, by rw [hbs, q.encode_instr]⟩
  | fsmState =>
    obtain ⟨x, rfl, hbs⟩ := decode_fsmState_eq_ok h
    exact ⟨x.instr_format, by rw [hbs, x.encode_instr]; rfl⟩

/-- Bytes that decode to nothing are rejected with an error: the decoder has no other answer. -/
theorem decode_error_of_not_ok {f : Format} {bs : List Byte} (h : ∀ i rest, decode f bs ≠ .ok (i, rest)) :
    ∃ e, decode f bs = .error e := by
  cases hdec : decode f bs with
  | error e => exact ⟨e, rfl⟩
  | ok r => exact absurd hdec (h r.1 r.2)

/-! ## The step of the AES agent -/

/-- With no request in the register the AES agent is held (log entry 3). -/
theorem step_aes_of_none {s : State} (h : s.aesReq = none) : step (s.sched .aes) = .next s := by
  rw [step_sched, instrOf, h]
  rfl

/-- A request in the register is run as the instruction it is (R89, R90). -/
theorem step_aes_of_request {s : State} {q : AesReq} (h : s.aesReq = some q) :
    step (s.sched .aes) = exec q.instr s := by
  have hdec : decode .aesReq (reqBytes q) = .ok (q.instr, []) := by
    simpa using decode_aesReq_reqBytes q []
  exact step_sched_of_instrOf (by rw [instrOf_aes_bytes _ h, hdec, decodedInstr_ok])

/-! ## The STATUS word (R82) -/

/-- The STATUS word is its fields side by side: STATE, ERRCODE, a zero bit, ERR, DONE and BUSY, with zeros above. -/
theorem statusWord_fields (s : State) :
    s.statusWord = (s.st.code ++ s.errCode.code ++ 0#1 ++ BitVec.ofBool s.err ++ BitVec.ofBool s.done ++
      BitVec.ofBool s.busy).setWidth 32 := by
  simp only [BitVec.setWidth_append_eq_shiftLeft_setWidth_or, BitVec.shiftLeft_or_distrib, ← BitVec.shiftLeft_add,
    BitVec.setWidth_zero, BitVec.or_zero, State.statusWord, flagWord]
  ac_rfl

theorem statusWord_flags (s : State) :
    s.statusWord.getLsbD 0 = s.busy ∧ s.statusWord.getLsbD 1 = s.done ∧ s.statusWord.getLsbD 2 = s.err ∧
      s.statusWord.getLsbD 3 = false := by
  simp [State.statusWord, flagWord]

theorem statusWord_errCode (s : State) : s.statusWord.extractLsb' 4 4 = s.errCode.code := by
  rw [statusWord_fields, BitVec.extractLsb'_setWidth_of_le (by decide)]
  iterate 4 rw [BitVec.extractLsb'_append_eq_of_le (by decide)]
  exact BitVec.extractLsb'_append_eq_right

theorem statusWord_state (s : State) : s.statusWord.extractLsb' 8 4 = s.st.code := by
  rw [statusWord_fields, BitVec.extractLsb'_setWidth_of_le (by decide)]
  iterate 5 rw [BitVec.extractLsb'_append_eq_of_le (by decide)]
  exact BitVec.extractLsb'_eq_self

theorem statusWord_upper (s : State) : s.statusWord.extractLsb' 12 20 = 0 := by
  rw [statusWord_fields, BitVec.setWidth_eq_append (by decide)]
  exact BitVec.extractLsb'_append_eq_left

/-! ## The obligations -/

/-- Settles O1, by the rule of each format. -/
theorem decodeEncodeAgree : Obligations.DecodeEncodeAgree :=
  fun _ hwf rest => decode_encode hwf rest

/-- Settles O2: the rules of the formats read from bytes to instruction, and a CMD word read whole. -/
theorem everyEncodingHasOneMeaning : Obligations.EveryEncodingHasOneMeaning :=
  ⟨fun _ _ _ _ => encode_of_decode, decode_cmd_wordBytes_append⟩

/-- Settles O11, field by field. -/
theorem statusWordFields : Obligations.StatusWordFields := by
  intro s
  obtain ⟨hbusy, hdone, herr, hzero⟩ := statusWord_flags s
  refine ⟨?_, hdone, herr, hzero, ?_, ?_, statusWord_upper s⟩
  · rw [hbusy, Bool.eq_iff_iff, State.busy_iff, decide_eq_true_iff]
  · rw [statusWord_errCode]
    cases s.errCode <;> rfl
  · rw [statusWord_state]
    cases s.st <;> rfl

/-- Settles O3: each line is the round trip of the instruction it names. -/
theorem wordsDecodeAsTheTablesSay : Obligations.WordsDecodeAsTheTablesSay :=
  ⟨decode_encode (i := .nop) rfl [], decode_encode (i := .wrap) rfl [],
    decode_encode (i := .illegalCmd 0x00000011) rfl [], decode_encode (i := .illegalCmd 0x80000001) rfl [],
    decode_encode (i := .aesSetkey 16 (vec 32 fun m => if m < 16 then BitVec.ofNat 8 m else 0x00)) rfl [],
    decode_encode (i := .aesEncrypt (vec 16 fun _ => 0xA6)) rfl [], decode_encode (i := .fsmForm) rfl []⟩

/-- Settles O4, by the branches of the decoder of CMD words. -/
theorem cmdWordReadWhole : Obligations.CmdWordReadWhole :=
  fun _ => ⟨fun h => by rw [h]; rfl, fun h => by rw [h]; rfl, decodeCmd_of_ne⟩

/-- Settles O5: bytes that decode start with a state's code or a message's header, and those are smaller. -/
theorem reservedCodesRejected : Obligations.ReservedCodesRejected := by
  refine ⟨fun c bs hc => decode_error_of_not_ok fun i rest hdec => ?_,
    fun header bs hheader => decode_error_of_not_ok fun i rest hdec => ?_⟩
  · obtain ⟨x, -, hbs⟩ := decode_fsmState_eq_ok hdec
    have hlt := x.code_toNat_lt
    rw [← (List.cons.inj hbs).1] at hlt
    omega
  · obtain ⟨q, -, hbs⟩ := decode_aesReq_eq_ok hdec
    obtain ⟨header', payload, hq, hlt⟩ := reqBytes_header_lt q
    rw [hq] at hbs
    rw [← (List.cons.inj hbs).1] at hlt
    omega

/-- Settles O7: the Engine runs the step of its state, the AES agent the instruction of its request. -/
theorem agentsFindTheirInstruction : Obligations.AgentsFindTheirInstruction := by
  intro s
  constructor
  · rw [step_engine]
    cases s.st <;> rfl
  · cases hreq : s.aesReq with
    | none => exact step_aes_of_none hreq
    | some q =>
      rw [step_aes_of_request hreq]
      cases q <;> rfl

end Sys2Proof.Machine

/-! # Proofs of the host-command statements (spec/41_host_commands.md)

First what the control offsets select and what a read or an idle write of them does; then each way a command ends: accepted,
rejected, or dropped; then one theorem per obligation. -/

namespace Sys2Proof.Machine

/-! ## What the control offsets select -/

/-- The eight words from 0x020 on are the KEK registers (R67, R92). -/
theorem access_reg_kek (p : Params) (k : Fin 8) : access p (.reg (0x020 + 4 * k)) 4 = some (.kek k) := by
  have haligned : (0x020 + 4 * k.val) % 4 = 0 := by omega
  have hindex : (0x020 + 4 * k.val - 0x020) / 4 = k.val := by omega
  simp only [access, busOffset, haligned, and_self, if_true]
  rw [target, if_neg (by omega), if_neg (by omega), if_neg (by omega), if_neg (by omega), dif_pos (by omega)]
  simp only [hindex]

/-- The offsets between the registers and BUF that no register has are reserved (R67, R92). -/
theorem access_reg_reserved (p : Params) {off : Nat} (haligned : off % 4 = 0)
    (hoff : 0x010 ≤ off ∧ off < 0x020 ∨ 0x040 ≤ off ∧ off < 0x100) : access p (.reg off) 4 = some .reserved := by
  simp only [access, busOffset, haligned, and_self, if_true]
  rw [target, if_neg (by omega), if_neg (by omega), if_neg (by omega), if_neg (by omega), dif_neg (by omega),
    if_pos (by omega)]

/-! ## Reads and idle writes of the control registers -/

/-- Only a read of BUF makes draws (R121). -/
theorem readDraws_of_control (s : State) {t : Target} (h : ∀ w, t ≠ .buf w) : readDraws s t = 0 := by
  cases t with
  | buf w => exact absurd rfl (h w)
  | _ => rfl

/-- A read of a control register or a reserved offset changes the returned word alone (R112 to R119, R127). -/
theorem step_hostRead_control (s : State) {a : BusAddr} {width : Nat} {t : Target}
    (hacc : access Config.params a width = some t) (hcontrol : ∀ w, t ≠ .buf w) :
    step (s.sched (.hostRead a width)) = .next { s with busData := some (readValue s t) } := by
  rw [step_hostRead_of_access s hacc, readDraws_of_control s hcontrol, Nat.add_zero]

section
variable {s : State} (hidle : s.st = .idle)
include hidle

theorem not_busy_of_idle : ¬s.busy = true := by simp [hidle]

/-- WR N while idle (R116). -/
theorem writeTarget_n_of_idle (v : Word) : writeTarget v s .n = { s with n := v } :=
  if_neg (not_busy_of_idle hidle)

/-- WR KEKLEN while idle stores the low six bits (R118). -/
theorem writeTarget_kekLen_of_idle (v : Word) : writeTarget v s .kekLen = { s with kekLen := v.extractLsb' 0 6 } := by
  rw [← BitVec.setWidth_eq_extractLsb' (by decide)]
  exact if_neg (not_busy_of_idle hidle)

/-- WR KEKk while idle (R120). -/
theorem writeTarget_kek_of_idle (k : Fin 8) (v : Word) :
    writeTarget v s (.kek k) = { s with kek := s.kek.set k v } :=
  if_neg (not_busy_of_idle hidle)

/-! ## Commands while idle -/

/-- WRAP's checks come in order: an illegal N is reported whatever KEKLEN holds (R124, R212). -/
theorem wrapCommand_badN {p : Params} (hn : s.n.toNat < p.pMinN ∨ p.nMax < s.n.toNat) :
    wrapCommand p s = { s with done := false, err := true, errCode := .badN } := by
  rw [wrapCommand, if_neg (not_busy_of_idle hidle), if_pos hn]
  rfl

/-- With a legal N, WRAP reports a KEKLEN above 32 (R124, R213). -/
theorem wrapCommand_badKeklen {p : Params} (hmin : p.pMinN ≤ s.n.toNat) (hmax : s.n.toNat ≤ p.nMax)
    (hlen : 32 < s.kekLen.toNat) :
    wrapCommand p s = { s with done := false, err := true, errCode := .badKeklen } := by
  rw [wrapCommand, if_neg (not_busy_of_idle hidle), if_neg (by omega), if_pos hlen]
  rfl

/-- With a legal N and KEKLEN, WRAP clears the flags and starts (R124). -/
theorem wrapCommand_accepted {p : Params} (hmin : p.pMinN ≤ s.n.toNat) (hmax : s.n.toNat ≤ p.nMax)
    (hlen : s.kekLen.toNat ≤ 32) :
    wrapCommand p s = { s with done := false, err := false, errCode := .none, pend := .none, st := .acq } := by
  rw [wrapCommand, if_neg (not_busy_of_idle hidle), if_neg (by omega), if_neg (by omega)]
  rfl

/-- A WRAP written while idle that leads to ACQ was accepted: a rejected one stays in IDLE (R124). -/
theorem wrapCommand_of_acq {p : Params} (hacq : (wrapCommand p s).st = .acq) :
    wrapCommand p s = { s with done := false, err := false, errCode := .none, pend := .none, st := .acq } := by
  rcases wrapCommand_cases p s with ⟨hbusy, -⟩ | ⟨-, -, hrejected⟩ | ⟨-, -, -, -, hrejected⟩ | ⟨-, -, -, -, haccepted⟩
  · exact absurd hidle hbusy
  · simp [hrejected, hidle] at hacq
  · simp [hrejected, hidle] at hacq
  · exact haccepted

/-- An illegal command written while idle is reported (R125, R214). -/
theorem illegalCommand_of_idle :
    illegalCommand s = { s with done := false, err := true, errCode := .illegalCmd } := by
  rw [illegalCommand, if_neg (not_busy_of_idle hidle)]
  rfl

end

/-! ## What a command leaves unchanged -/

theorem wrapCommand_frame (p : Params) (s : State) :
    wrapCommand p s = { s with
      done := (wrapCommand p s).done, err := (wrapCommand p s).err, errCode := (wrapCommand p s).errCode
      pend := (wrapCommand p s).pend, st := (wrapCommand p s).st } := by
  rcases wrapCommand_cases p s with ⟨-, ht⟩ | ⟨-, -, ht⟩ | ⟨-, -, -, -, ht⟩ | ⟨-, -, -, -, ht⟩ <;> rw [ht]

theorem illegalCommand_frame (s : State) :
    illegalCommand s = { s with
      done := (illegalCommand s).done, err := (illegalCommand s).err, errCode := (illegalCommand s).errCode
      pend := (illegalCommand s).pend, st := (illegalCommand s).st } := by
  rcases illegalCommand_cases s with ⟨-, ht⟩ | ⟨-, ht⟩ <;> rw [ht]

/-- A command moves at most the flags, PEND and the controller's state (R123 to R126). -/
theorem exec_decodeCmd_frame {v : Word} {s t : State} (h : exec (decodeCmd v) s = .next t) :
    t = { s with done := t.done, err := t.err, errCode := t.errCode, pend := t.pend, st := t.st } := by
  rcases exec_decodeCmd_cases v s with ⟨-, hcmd⟩ | ⟨-, hcmd⟩ | ⟨-, -, hcmd⟩ <;> rw [hcmd] at h <;> cases h
  · rfl
  · exact wrapCommand_frame Config.params s
  · exact illegalCommand_frame s

/-! ## The start of an operation -/

/-- ACQ over a loaded buffer: nothing of the operation has been done yet, so the buffer is the one WRAP found (R197). -/
theorem RunInv.start (p : Params) {s : State} {buf0 : Memory} {plain : Nat → Slot} (hst : s.st = .acq)
    (hbuf : s.buf = buf0) (hfree : s.faults.isEmpty = true)
    (hloaded : ∀ k, 1 ≤ k → k ≤ s.n.toNat → Memory.slot buf0 k = some (plain k)) : RunInv p buf0 plain s where
  busy := by rw [hst]; nofun
  loaded := hloaded
  noFault := hfree
  outside := fun _ _ => by rw [hbuf]
  untouched := fun _ => hbuf
  inLoop := by rw [hst]; nofun
  formed := by rw [hst]; nofun
  answered := by rw [hst]; nofun
  finished := by rw [hst]; nofun
  failed := by rw [hst]; nofun

/-! ## The obligations -/

/-- Settles O58: a WRAP that leads to ACQ was accepted, and acceptance moves only the flags and the controller's state. -/
theorem acceptedWrapStartsTheBufferInvariant : Obligations.AcceptedWrapStartsTheBufferInvariant := by
  intro s t plain _ hidle hfree hloaded hwrap hacq
  obtain rfl : wrapCommand Config.params s = t := Host.Outcome.next.inj hwrap
  rw [wrapCommand_of_acq hidle hacq]
  exact RunInv.start Config.params rfl rfl hfree hloaded

/-- Settles O12: each offset selects its register, and none of them is a word of BUF. -/
theorem hostReadsRegisters : Obligations.HostReadsRegisters := fun s =>
  ⟨step_hostRead_control s (access_reg_cmd _) nofun, step_hostRead_control s (t := .status) rfl nofun,
    step_hostRead_control s (t := .n) rfl nofun, step_hostRead_control s (t := .kekLen) rfl nofun,
    fun k => step_hostRead_control s (access_reg_kek _ k) nofun,
    fun _ haligned hoff => step_hostRead_control s (access_reg_reserved _ haligned hoff) nofun⟩

/-- Settles O16: each offset selects its register, and an idle write stores there what the register holds. -/
theorem hostWritesRegisters : Obligations.HostWritesRegisters := by
  intro s v hidle
  refine ⟨?_, ?_, fun k => ?_, ?_, fun off haligned hoff => ?_⟩
  · rw [step_hostWrite_of_access s v (t := .n) rfl nofun, writeTarget_n_of_idle hidle]
  · rw [step_hostWrite_of_access s v (t := .kekLen) rfl nofun, writeTarget_kekLen_of_idle hidle]
  · rw [step_hostWrite_of_access s v (access_reg_kek _ k) nofun, writeTarget_kek_of_idle hidle]
  · exact step_hostWrite_of_access s v (t := .status) rfl nofun
  · exact step_hostWrite_of_access s v (access_reg_reserved _ haligned hoff) nofun

/-- Settles O23: both meanings are the identity. -/
theorem nopAndIdleChangeNothing : Obligations.NopAndIdleChangeNothing := fun _ => ⟨rfl, rfl⟩

/-- Settles O24, by the checks of WRAP in their order; N = 0 lies below P_MIN_N. -/
theorem wrapChecksAndStarts : Obligations.WrapChecksAndStarts := by
  intro s hidle
  have hexec : exec .wrap s = .next (wrapCommand Config.params s) := rfl
  rw [hexec]
  refine ⟨fun hmin hmax hlen => ?_, fun hn => ?_, fun hmin hmax hlen => ?_⟩
  · rw [wrapCommand_accepted hidle hmin hmax hlen]
  · have hrange : s.n.toNat < Config.params.pMinN ∨ Config.params.nMax < s.n.toNat := by
      rcases hn with hzero | hrange
      · left
        rw [hzero]
        exact Nat.succ_pos _
      · exact hrange
    rw [wrapCommand_badN hidle hrange]
  · rw [wrapCommand_badKeklen hidle hmin hmax hlen]

/-- Settles O25: an illegal command's meaning does not read its word. -/
theorem illegalCommandReported : Obligations.IllegalCommandReported := fun _ _ hidle _ _ =>
  congrArg Host.Outcome.next (illegalCommand_of_idle hidle)

/-- Settles O26, by the three decodings of a CMD word. -/
theorem commandWhileBusyDropped : Obligations.CommandWhileBusyDropped := fun _ v hbusy =>
  exec_decodeCmd_of_busy hbusy v

/-- Settles O27: BUF is in the frame of every command. -/
theorem commandFrame : Obligations.CommandFrame := by
  intro s t v h
  have hframe := exec_decodeCmd_frame h
  have hbuf : t.buf = s.buf := by rw [hframe]
  exact ⟨hframe, fun a => by rw [hbuf]⟩

end Sys2Proof.Machine

/-! # Proofs of the loop-controller statements (spec/42_loop_controller.md)

First what each Engine step makes of a state that enables it, its frame and what it leaves in the buffer; then the counter and
the order of the iterations; then the buffer invariant, move by move; then model faults, progress and the step count; then
one theorem per obligation. -/

namespace Sys2Proof.Machine

/-! ## Each Engine step where its enabling condition holds -/

/-- The state that UPDATE leads to (R149). -/
def State.updated (s : State) : State :=
  { s with
    buf := writtenBack s, j := (advance s.j s.i s.n).1, i := (advance s.j s.i s.n).2.1
    st := (advance s.j s.i s.n).2.2 }

@[simp] theorem State.updated_buf (s : State) : s.updated.buf = writtenBack s := rfl
@[simp] theorem State.updated_n (s : State) : s.updated.n = s.n := rfl
@[simp] theorem State.updated_enc (p : Params) (s : State) : s.updated.enc p = s.enc p := rfl

section
variable {p : Params} {s : State} (hfree : s.faults.isEmpty = true)
include hfree

theorem engineIn_of_st {x : FsmState} (hst : s.st = x) : s.engineIn x = true :=
  (State.engineIn_iff s x).2 ⟨hfree, hst⟩

/-- ACQ under the grant issues the key setup (R144). -/
theorem acqStep_of_granted (hst : s.st = .acq) (hgnt : s.gnt = true) (hreq : s.aesReq = none)
    (hresp : s.aesResp = none) : acqStep s = { s with aesReq := some (setKeyReq s), st := .setkey } := by
  have henabled : (s.engineIn .acq && s.gnt && s.portEmpty) = true := by simp [hfree, hst, hgnt, hreq, hresp]
  rw [acqStep, if_pos henabled]
  rfl

/-- SETKEY goes on to INIT with an accepted key (R145). -/
theorem setkeyStep_of_accepted {r : AesResp} (hst : s.st = .setkey) (hresp : s.aesResp = some r)
    (hrop : r.rop = .setKey) (hok : r.ok = true) : setkeyStep s = { s with aesResp := none, st := .init } := by
  simp [setkeyStep, engineIn_of_st hfree hst, hresp, hrop, hok, State.takeResp]

/-- SETKEY latches a rejected key (R145, R211). -/
theorem setkeyStep_of_rejected {r : AesResp} (hst : s.st = .setkey) (hresp : s.aesResp = some r)
    (hrop : r.rop = .setKey) (hok : r.ok = false) :
    setkeyStep s = { s with aesResp := none, pend := .keySetupFail, st := .rel } := by
  simp [setkeyStep, engineIn_of_st hfree hst, hresp, hrop, hok, State.takeResp]

/-- INIT writes slot 0 and starts the indices (R146). -/
theorem initStep_of_init (hst : s.st = .init) :
    initStep s =
      { s with buf := Memory.writeBytes s.buf (8 * 0) aInit.toList, j := 0, i := 1, st := .form } := by
  rw [initStep, if_pos (engineIn_of_st hfree hst)]
  rfl

/-- FORM records a block with an unwritten byte (R147). -/
theorem formStep_of_unwritten (hst : s.st = .form) (hreq : s.aesReq = none) (hresp : s.aesResp = none)
    (hi : s.i.toNat ≤ p.nMax) (hw : Memory.written s.buf (8 * s.i.toNat) 8 = false) :
    formStep p s = .next (s.recordFault .uninitBuf) := by
  have henabled : (s.engineIn .form && s.portEmpty) = true := by simp [hfree, hst, hreq, hresp]
  rw [formStep, if_pos henabled, if_neg (Nat.not_lt.2 hi), slotSel, hw]
  rfl

/-- FORM over a written block issues its encryption (R147). -/
theorem formStep_of_written (hst : s.st = .form) (hreq : s.aesReq = none) (hresp : s.aesResp = none)
    (hi : s.i.toNat ≤ p.nMax) (hw : Memory.written s.buf (8 * s.i.toNat) 8 = true) :
    formStep p s = .next { s with
      b := formedBlock s.i s, draws := s.draws + s.drawCount 0 8
      aesReq := some (.encrypt (formedBlock s.i s)), st := .encwait } := by
  have henabled : (s.engineIn .form && s.portEmpty) = true := by simp [hfree, hst, hreq, hresp]
  rw [formStep, if_pos henabled, if_neg (Nat.not_lt.2 hi), slotSel, if_pos hw]
  rfl

/-- ENCWAIT takes the answer's block, whatever its OK bit (R148, R178). -/
theorem encwaitStep_of_answer {r : AesResp} (hst : s.st = .encwait) (hresp : s.aesResp = some r)
    (hrop : r.rop = .encrypt) : encwaitStep s = { s with aesResp := none, b := r.blk, st := .update } := by
  simp [encwaitStep, engineIn_of_st hfree hst, hresp, hrop, State.takeResp]

/-- UPDATE writes back and advances (R149). -/
theorem updateStep_of_update (hst : s.st = .update) (hi : s.i.toNat ≤ p.nMax) :
    updateStep p s = .next s.updated := by
  rw [updateStep, if_pos (engineIn_of_st hfree hst), if_neg (Nat.not_lt.2 hi)]
  simp only [State.updated, writtenBack, writeBack, writeBackR, updateA, State.writeBuf, slotSel, Nat.mul_zero]

/-- REL with nothing pending reports success (R152). -/
theorem relStep_of_success (hst : s.st = .rel) (hpend : s.pend = .none) :
    relStep s = { s with st := .idle, gnt := false, done := true } := by
  rw [relStep, if_pos (engineIn_of_st hfree hst), report, if_pos hpend]

/-- REL reports the pending error (R152, R215). -/
theorem relStep_of_error (hst : s.st = .rel) (hpend : s.pend ≠ .none) :
    relStep s = { s with st := .idle, gnt := false, err := true, errCode := s.pend } := by
  rw [relStep, if_pos (engineIn_of_st hfree hst), report, if_neg hpend]
  rfl

end

/-! ## What each Engine step leaves unchanged -/

theorem acqStep_frame (s : State) : acqStep s = { s with aesReq := (acqStep s).aesReq, st := (acqStep s).st } := by
  rcases acqStep_cases s with ht | ⟨-, -, -, -, -, ht⟩ <;> rw [ht]

theorem setkeyStep_frame (s : State) :
    setkeyStep s = { s with
      aesResp := (setkeyStep s).aesResp, pend := (setkeyStep s).pend, st := (setkeyStep s).st
      faults := (setkeyStep s).faults } := by
  rcases setkeyStep_cases s with ht | ⟨r, -, -, -, ⟨-, -, ht⟩ | ⟨-, -, ht⟩ | ⟨-, ht⟩⟩ <;> rw [ht]
  rfl

theorem initStep_frame (s : State) :
    initStep s = { s with
      buf := (initStep s).buf, j := (initStep s).j, i := (initStep s).i, st := (initStep s).st } := by
  rcases initStep_cases s with ht | ⟨-, -, ht⟩ <;> rw [ht]

theorem formStep_frame {p : Params} {s t : State} (h : formStep p s = .next t) :
    t = { s with b := t.b, aesReq := t.aesReq, st := t.st, faults := t.faults, draws := t.draws } := by
  rcases formStep_cases p s with ht | ⟨-, -, -, -, ⟨-, ht⟩ | ⟨-, -, ht⟩ | ⟨-, -, ht⟩⟩ <;> rw [ht] at h <;> cases h <;> rfl

theorem encwaitStep_frame (s : State) :
    encwaitStep s = { s with
      aesResp := (encwaitStep s).aesResp, b := (encwaitStep s).b, st := (encwaitStep s).st
      faults := (encwaitStep s).faults } := by
  rcases encwaitStep_cases s with ht | ⟨r, -, -, -, ⟨-, ht⟩ | ⟨-, ht⟩⟩ <;> rw [ht]
  rfl

theorem updateStep_frame {p : Params} {s t : State} (h : updateStep p s = .next t) :
    t = { s with buf := t.buf, j := t.j, i := t.i, st := t.st } := by
  rcases updateStep_cases p s with ht | ⟨-, -, ⟨-, ht⟩ | ⟨-, ht⟩⟩ <;> rw [ht] at h <;> cases h <;> rfl

/-- UPDATE leaves BUF alone or writes the iteration back (R149). -/
theorem updateStep_buf {p : Params} {s t : State} (h : updateStep p s = .next t) :
    t.buf = s.buf ∨ t.buf = writtenBack s := by
  rcases updateStep_cases p s with ht | ⟨-, -, ⟨-, ht⟩ | ⟨-, ht⟩⟩ <;> rw [ht] at h <;> cases h
  · exact .inl rfl
  · exact .inr rfl

theorem relStep_frame (s : State) :
    relStep s = { s with
      st := (relStep s).st, gnt := (relStep s).gnt, done := (relStep s).done, err := (relStep s).err
      errCode := (relStep s).errCode } := by
  rcases relStep_cases s with ht | ⟨-, -, ⟨-, ht⟩ | ⟨-, ht⟩⟩ <;> rw [ht]

/-! ## The buffer under INIT, FORM and UPDATE -/

/-- Bytes are not all written exactly when one of them holds nothing (R39). -/
theorem Memory.written_eq_false_iff (m : Memory) (a len : Nat) :
    Memory.written m a len = false ↔ ∃ b, b < len ∧ Memory.read m (a + b) = none := by
  rw [← Bool.not_eq_true, Memory.written_iff]
  simp

/-- The bytes of a slot just written (R60). -/
theorem Memory.read_writeSlot_same (m : Memory) (k : Nat) (x : Slot) {b : Nat} (hb : b < 8) :
    Memory.read (Memory.writeBytes m (8 * k) x.toList) (8 * k + b) = some x[b] :=
  (Memory.slot_eq_some_iff _ k x).1 (Memory.slot_writeSlot_same m k x) b hb

/-- Writing a slot leaves every byte outside it alone (R60). -/
theorem Memory.read_writeSlot_other (m : Memory) {k a : Nat} (x : Slot) (h : a < 8 * k ∨ 8 * k + 8 ≤ a) :
    Memory.read (Memory.writeBytes m (8 * k) x.toList) a = Memory.read m a :=
  Memory.read_writeBytes_other m _ (by simpa using h)

/-- The bytes of a block formed of two slots, in order (R12). -/
@[simp] theorem joinSlots_toList (x y : Slot) : (joinSlots x y).toList = x.toList ++ y.toList := by
  apply List.ext_getElem
  · simp
  · intro k hk _
    have hk16 : k < 16 := by simpa using hk
    rw [List.getElem_append]
    interval_cases k <;> simp [joinSlots]

section
variable {s : State}

/-- Over two written slots FORM's block is their bytes, in order (R193). -/
theorem formedBlock_of_slots {i : Word} {x y : Slot} (hx : Memory.slot s.buf 0 = some x)
    (hy : Memory.slot s.buf i.toNat = some y) : formedBlock i s = joinSlots x y := by
  have hA : (vec 8 fun b => s.byteAt b b) = x := by
    apply Vector.ext
    intro b hb
    rw [getElem_vec]
    exact State.byteAt_of_written b (by simpa using (Memory.slot_eq_some_iff _ _ _).1 hx b hb)
  have hR : (vec 8 fun b => s.byteAt (slotSel i + b) (8 + b)) = y := by
    apply Vector.ext
    intro b hb
    rw [getElem_vec]
    exact State.byteAt_of_written (8 + b) ((Memory.slot_eq_some_iff _ _ _).1 hy b hb)
  rw [formedBlock, hA, hR]

/-- The first four bytes of the fold are those of B (R194). -/
theorem foldCounter_of_lt (x : Block) (t : Word) (b : Fin 4) : (foldCounter x t)[b.val] = x[b.val] := by
  fin_cases b <;> rfl

/-- The last four bytes of the fold take in the counter, most significant byte first (R194). -/
theorem foldCounter_of_ge (x : Block) (t : Word) (b : Fin 4) :
    (foldCounter x t)[4 + b.val] = x[4 + b.val] ^^^ t.extractLsb' (8 * (3 - b)) 8 := by
  fin_cases b <;> rfl

theorem loSlot_getElem (x : Block) (b : Fin 8) : (loSlot x)[b.val] = x[8 + b.val] := by
  fin_cases b <;> rfl

/-- FORM makes no draw where slot 0 is written (R147). -/
theorem drawCount_of_slot {x : Slot} (hx : Memory.slot s.buf 0 = some x) : s.drawCount 0 8 = 0 := by
  have hw : Memory.written s.buf (8 * 0) 8 = true := (Memory.slot_isSome_iff _ _).1 (by rw [hx]; rfl)
  exact if_pos hw

/-- UPDATE leaves A with the counter folded in in slot 0 (R194). -/
theorem writtenBack_slotA (hi : 1 ≤ s.i.toNat) :
    Memory.slot (writtenBack s) 0 = some (foldCounter s.b (counter s.n s.j s.i)) := by
  rw [writtenBack, Memory.slot_writeSlot_other _ _ (by omega), Memory.slot_writeSlot_same]

/-- UPDATE leaves the second half of B in slot i (R196). -/
theorem writtenBack_slotR : Memory.slot (writtenBack s) s.i.toNat = some (loSlot s.b) :=
  Memory.slot_writeSlot_same _ _ _

/-- Slot 0 byte by byte after UPDATE (R194). -/
theorem writtenBack_readA (hi : 1 ≤ s.i.toNat) {b : Nat} (hb : b < 8) :
    Memory.read (writtenBack s) b = some (foldCounter s.b (counter s.n s.j s.i))[b] := by
  have hslot := (Memory.slot_eq_some_iff _ _ _).1 (writtenBack_slotA hi) b hb
  rwa [Nat.mul_zero, Nat.zero_add] at hslot

/-- Slot i byte by byte after UPDATE (R196). -/
theorem writtenBack_readR {b : Nat} (hb : b < 8) :
    Memory.read (writtenBack s) (8 * s.i.toNat + b) = some (loSlot s.b)[b] :=
  Memory.read_writeSlot_same _ _ _ hb

/-- UPDATE leaves every other slot alone (R198). -/
theorem writtenBack_slot_other {k : Nat} (hk : 1 ≤ k) (hne : k ≠ s.i.toNat) :
    Memory.slot (writtenBack s) k = Memory.slot s.buf k := by
  rw [writtenBack, Memory.slot_writeSlot_other _ _ hne, Memory.slot_writeSlot_other _ _ (by omega)]

/-- UPDATE leaves every byte outside the two slots alone (R198). -/
theorem writtenBack_read_other {a : Nat} (hA : 8 ≤ a) (hR : a < 8 * s.i.toNat ∨ 8 * s.i.toNat + 8 ≤ a) :
    Memory.read (writtenBack s) a = Memory.read s.buf a := by
  rw [writtenBack, Memory.read_writeSlot_other _ _ hR, Memory.read_writeSlot_other _ _ (by omega)]

end

/-! ## The counter and the order of the iterations -/

/-- Where n*j + i fits in 32 bits, the modular counter is that integer (R150, R154). -/
theorem counter_toNat {n i : Word} {j : BitVec 3} (h : n.toNat * j.toNat + i.toNat < 2 ^ 32) :
    (counter n j i).toNat = n.toNat * j.toNat + i.toNat := by
  have hj : (j.setWidth 32).toNat = j.toNat := BitVec.toNat_setWidth_of_le (by decide)
  have hmul : (n * j.setWidth 32).toNat = n.toNat * j.toNat := by
    rw [BitVec.toNat_mul, hj, Nat.mod_eq_of_lt (by omega)]
  rw [counter, BitVec.toNat_add, hmul, Nat.mod_eq_of_lt h]

/-- The counter of an iteration is at most 6n (R154). -/
theorem counter_le {n j i : Nat} (hj : j ≤ 5) (hi : i ≤ n) : n * j + i ≤ 6 * n := by
  have : n * j ≤ n * 5 := Nat.mul_le_mul_left n hj
  omega

/-- Every number from 1 to 6n is the counter of an iteration (R153). -/
theorem exists_iteration {n t : Nat} (ht : 1 ≤ t) (hn : t ≤ 6 * n) :
    ∃ j i, j ≤ 5 ∧ 1 ≤ i ∧ i ≤ n ∧ n * j + i = t := by
  have hpos : 0 < n := by omega
  have hlt : (t - 1) / n < 6 := (Nat.div_lt_iff_lt_mul hpos).2 (by omega)
  have hmod := Nat.mod_lt (t - 1) hpos
  have hdiv := Nat.div_add_mod (t - 1) n
  exact ⟨(t - 1) / n, (t - 1) % n + 1, by omega, by omega, by omega, by omega⟩

/-- A number whose bits from `k` on are not all zero reaches `2^k`. -/
theorem le_toNat_of_extractLsb'_ne_zero {t : Word} {k : Nat} (h : t.extractLsb' k 8 ≠ 0) : 2 ^ k ≤ t.toNat := by
  refine Nat.le_of_not_lt fun hlt => h (BitVec.eq_of_toNat_eq ?_)
  rw [BitVec.extractLsb'_toNat, Nat.shiftRight_eq_div_pow, Nat.div_eq_of_lt hlt]
  rfl

/-- The byte from bit `k` of the counter is non-zero in some iteration exactly when 6n reaches `2^k`, since the counters
are the numbers from 1 to 6n (R156). -/
theorem exists_counter_byte_iff {n : Word} {k : Nat} (hn : n.toNat ≤ 715827882) :
    (∃ (j : BitVec 3) (i : Word), j.toNat ≤ 5 ∧ 1 ≤ i.toNat ∧ i.toNat ≤ n.toNat ∧
      (counter n j i).extractLsb' k 8 ≠ 0) ↔ 2 ^ k ≤ 6 * n.toNat := by
  constructor
  · rintro ⟨j, i, hj, -, hi, hbyte⟩
    have hle := counter_le hj hi
    have hreach := le_toNat_of_extractLsb'_ne_zero hbyte
    rw [counter_toNat (by omega)] at hreach
    exact hreach.trans hle
  · intro hreach
    obtain ⟨j, i, hj, hi, hin, ht⟩ := exists_iteration Nat.one_le_two_pow hreach
    have hj' : (BitVec.ofNat 3 j).toNat = j := by rw [BitVec.toNat_ofNat]; omega
    have hi' : (BitVec.ofNat 32 i).toNat = i := by rw [BitVec.toNat_ofNat]; omega
    refine ⟨BitVec.ofNat 3 j, BitVec.ofNat 32 i, by omega, by omega, by omega, fun hzero => ?_⟩
    have htoNat : (counter n (BitVec.ofNat 3 j) (BitVec.ofNat 32 i)).toNat = 2 ^ k := by
      rw [counter_toNat (by rw [hj', hi']; omega), hj', hi', ht]
    have := congrArg BitVec.toNat hzero
    simp [BitVec.extractLsb'_toNat, htoNat, Nat.shiftRight_eq_div_pow] at this

/-- Advance goes on to FORM with one more iteration complete, or to REL after 6n of them (R151, R153). -/
theorem advance_iterations {n i : Word} {j : BitVec 3} (hj : j.toNat ≤ 5) (hi : 1 ≤ i.toNat) (hin : i.toNat ≤ n.toNat) :
    ((advance j i n).2.2 = .form ∧ n.toNat * (advance j i n).1.toNat + ((advance j i n).2.1.toNat - 1) =
      n.toNat * j.toNat + (i.toNat - 1) + 1) ∨
    ((advance j i n).2.2 = .rel ∧ n.toNat * j.toNat + (i.toNat - 1) + 1 = 6 * n.toNat) := by
  rcases advance_cases j i n with ⟨hlt, hadv⟩ | ⟨hlast, hlt, hadv⟩ | ⟨hlast, hfive, hadv⟩ <;> rw [hadv]
  · have hnext : (i + 1).toNat = i.toNat + 1 := BitVec.toNat_add_of_lt (by simp; omega)
    exact .inl ⟨rfl, by simp only [hnext]; omega⟩
  · have hround : (j + 1).toNat = j.toNat + 1 := BitVec.toNat_add_of_lt (by simp; omega)
    have hone : (1 : Word).toNat = 1 := rfl
    refine .inl ⟨rfl, ?_⟩
    simp only [hround, hone, Nat.mul_add]
    omega
  · have hj5 : j.toNat = 5 := by omega
    exact .inr ⟨rfl, by rw [hj5]; omega⟩

/-- UPDATE moves the controller to where Advance says (R149). -/
theorem State.updated_position {s : State} {j : BitVec 3} {i : Word} {x : FsmState}
    (h : advance s.j s.i s.n = (j, i, x)) : s.updated.j = j ∧ s.updated.i = i ∧ s.updated.st = x := by
  simp only [State.updated, h, and_self]

/-- After UPDATE one more iteration is complete: the controller is in FORM, or in REL after 6n of them (R153). -/
theorem CtrlInv.updated_iterations {p : Params} {s : State} (h : CtrlInv p s) (hst : s.st = .update) :
    (s.updated.st = .form ∧ s.updated.iterations = s.iterations + 1) ∨
      (s.updated.st = .rel ∧ s.iterations + 1 = 6 * s.n.toNat) := by
  obtain ⟨hj, hi, hin⟩ := h.loopIndices (by rw [hst]; rfl)
  exact advance_iterations hj hi hin

/-! ## The source's iteration -/

/-- The bytes of the number that a slot's bytes are put together to (R12). -/
theorem extractLsb'_be64 (x : Slot) {k : Nat} (hk : k < 8) : (be64 x).extractLsb' (8 * (7 - k)) 8 = x[k] := by
  have above (start : Nat) (h : 8 ≤ start) {n : Nat} (y : BitVec n) (z : Byte) :
      (y ++ z).extractLsb' start 8 = y.extractLsb' (start - 8) 8 := BitVec.extractLsb'_append_eq_of_le h
  have lowest {n : Nat} (y : BitVec n) (z : Byte) : (y ++ z).extractLsb' 0 8 = z :=
    BitVec.extractLsb'_append_eq_right
  interval_cases k <;> simp [be64, above, lowest]

/-- The number whose bytes are a slot's has that slot as its bytes (R12). -/
@[simp] theorem be64inv_be64 (x : Slot) : be64inv (be64 x) = x := by
  apply Vector.ext
  intro k hk
  rw [be64inv, getElem_vec, extractLsb'_be64 x hk]

/-- The fold of UPDATE is that of the source's iteration (R195, R201). -/
theorem foldCounter_eq_be64inv (b : Block) (t : Word) :
    foldCounter b t = be64inv (be64 (hiSlot b) ^^^ BitVec.ofNat 64 t.toNat) := by
  have hfold : be64 (foldCounter b t) = be64 (hiSlot b) ^^^ t.setWidth 64 := foldIsA64BitXor b t
  have hwide : BitVec.ofNat 64 t.toNat = t.setWidth 64 := by simp
  rw [hwide, ← hfold, be64inv_be64]

/-- The iteration with the indices j and i is number `n*j + (i - 1)` (R153). -/
theorem refWrap_succ (enc : Block → Block) {n : Nat} (plain : Nat → Slot) {j i : Nat} (hi : 1 ≤ i) (hin : i ≤ n)
    {x : Slot × (Nat → Slot)} (hx : refWrap enc n plain (n * j + (i - 1)) = x) :
    refWrap enc n plain (n * j + (i - 1) + 1) =
      ((refIteration enc (n * j + i) x.1 (x.2 i)).1,
        fun k => if k = i then (refIteration enc (n * j + i) x.1 (x.2 i)).2 else x.2 k) := by
  have hround : (n * j + (i - 1)) / n = j := by
    rw [Nat.mul_add_div (by omega), Nat.div_eq_of_lt (by omega), Nat.add_zero]
  have hindex : (n * j + (i - 1)) % n + 1 = i := by
    rw [Nat.mul_add_mod, Nat.mod_eq_of_lt (by omega)]
    omega
  simp only [refWrap, hx, hround, hindex]

/-! ## The buffer invariant, move by move -/

section
variable {p : Params} {buf0 : Memory} {plain : Nat → Slot} {s : State}

/-- In the loop of an accepted WRAP the counter never wraps (R154). -/
theorem CtrlInv.counter_toNat (h : CtrlInv p s) (hst : s.st.inLoop = true) :
    (counter s.n s.j s.i).toNat = s.n.toNat * s.j.toNat + s.i.toNat := by
  have hbusy : s.st ≠ .idle := by rintro hidle; rw [hidle] at hst; cases hst
  obtain ⟨hj, -, hin⟩ := h.loopIndices hst
  have hn := (h.busyInputs hbusy).2.1
  have hmax := p.nMax_le
  have hle := counter_le hj hin
  exact Machine.counter_toNat (by omega)

/-- UPDATE carries out one iteration of the source's algorithm on the buffer (R199 to R201). -/
theorem RunInv.writtenBack_holds (h : RunInv p buf0 plain s) (hinv : CtrlInv p s) (hst : s.st = .update) :
    bufHolds (writtenBack s) s.n.toNat (refWrap (s.enc p) s.n.toNat plain (s.iterations + 1)) := by
  have hloop : s.st.inLoop = true := by rw [hst]; rfl
  obtain ⟨-, hi, hin⟩ := hinv.loopIndices hloop
  have hb := h.answered hst
  obtain ⟨-, hslots⟩ := h.inLoop hloop
  rw [State.iterations, refWrap_succ (s.enc p) plain hi hin (x := s.ref p plain) rfl, refIteration, ← hb,
    ← hinv.counter_toNat hloop, ← foldCounter_eq_be64inv]
  refine ⟨writtenBack_slotA hi, fun k hk hkn => ?_⟩
  dsimp only
  split
  · next hki => rw [hki, writtenBack_slotR]
  · next hki => rw [writtenBack_slot_other hk hki, hslots k hk hkn]

/-- ACQ to SETKEY: the buffer is untouched. -/
theorem RunInv.acq_move (h : RunInv p buf0 plain s) (hst : s.st = .acq) :
    RunInv p buf0 plain { s with aesReq := some (setKeyReq s), st := .setkey } :=
  { h with
    busy := nofun
    untouched := fun _ => h.untouched (.inl hst)
    inLoop := nofun, formed := nofun, answered := nofun, finished := nofun, failed := nofun }

/-- SETKEY to INIT: the buffer is untouched. -/
theorem RunInv.setkeyOk_move (h : RunInv p buf0 plain s) (hst : s.st = .setkey) :
    RunInv p buf0 plain { s with aesResp := none, st := .init } :=
  { h with
    busy := nofun
    untouched := fun _ => h.untouched (.inr (.inl hst))
    inLoop := nofun, formed := nofun, answered := nofun, finished := nofun, failed := nofun }

/-- SETKEY to REL: the operation has failed with the buffer untouched (R145). -/
theorem RunInv.setkeyBad_move (h : RunInv p buf0 plain s) (hst : s.st = .setkey) :
    RunInv p buf0 plain { s with aesResp := none, pend := .keySetupFail, st := .rel } :=
  { h with
    busy := nofun
    untouched := nofun
    inLoop := nofun, formed := nofun, answered := nofun, finished := nofun
    failed := fun _ _ => h.untouched (.inr (.inl hst)) }

/-- What is left of the invariant in FORM. -/
theorem RunInv.of_form (hst : s.st = .form) (hloaded : ∀ k, 1 ≤ k → k ≤ s.n.toNat → Memory.slot buf0 k = some (plain k))
    (hfree : s.faults.isEmpty = true)
    (houtside : ∀ a, 8 * (s.n.toNat + 1) ≤ a → Memory.read s.buf a = Memory.read buf0 a)
    (hholds : bufHolds s.buf s.n.toNat (s.ref p plain)) : RunInv p buf0 plain s where
  busy := by rw [hst]; nofun
  loaded := hloaded
  noFault := hfree
  outside := houtside
  untouched := by rw [hst]; nofun
  inLoop := fun _ => hholds
  formed := by rw [hst]; nofun
  answered := by rw [hst]; nofun
  finished := by rw [hst]; nofun
  failed := by rw [hst]; nofun

/-- What is left of the invariant in REL with success to report. -/
theorem RunInv.of_rel (hst : s.st = .rel) (hpend : s.pend = .none)
    (hloaded : ∀ k, 1 ≤ k → k ≤ s.n.toNat → Memory.slot buf0 k = some (plain k)) (hfree : s.faults.isEmpty = true)
    (houtside : ∀ a, 8 * (s.n.toNat + 1) ≤ a → Memory.read s.buf a = Memory.read buf0 a)
    (hholds : bufHolds s.buf s.n.toNat (refWrap (s.enc p) s.n.toNat plain (6 * s.n.toNat))) :
    RunInv p buf0 plain s where
  busy := by rw [hst]; nofun
  loaded := hloaded
  noFault := hfree
  outside := houtside
  untouched := by rw [hst]; nofun
  inLoop := by rw [hst]; nofun
  formed := by rw [hst]; nofun
  answered := by rw [hst]; nofun
  finished := fun _ _ => hholds
  failed := fun _ hfailed => absurd hpend hfailed

/-- INIT to FORM: A and R before the first iteration (R197). -/
theorem RunInv.init_move (h : RunInv p buf0 plain s) (hst : s.st = .init) :
    RunInv p buf0 plain
      { s with buf := Memory.writeBytes s.buf (8 * 0) aInit.toList, j := 0, i := 1, st := .form } := by
  have hbuf := h.untouched (.inr (.inr hst))
  refine .of_form rfl h.loaded h.noFault (fun a ha => ?_) ⟨Memory.slot_writeSlot_same _ _ _, fun k hk hn => ?_⟩
  · rw [← h.outside a ha]
    exact Memory.read_writeSlot_other _ _ (by omega)
  · rw [Memory.slot_writeSlot_other _ _ (by omega), hbuf]
    exact h.loaded k hk hn

/-- FORM to ENCWAIT: B is the block of the next iteration (R199). -/
theorem RunInv.form_move (h : RunInv p buf0 plain s) (hinv : CtrlInv p s) (hst : s.st = .form)
    (hresp : s.aesResp = none) (d : Nat) :
    RunInv p buf0 plain
      { s with b := formedBlock s.i s, draws := d, aesReq := some (.encrypt (formedBlock s.i s)), st := .encwait } :=
  have hloop : s.st.inLoop = true := by rw [hst]; rfl
  have hholds := h.inLoop hloop
  have hindices := hinv.loopIndices hloop
  { h with
    busy := nofun
    untouched := nofun
    inLoop := fun _ => hholds
    formed := fun _ => ⟨formedBlock_of_slots hholds.1 (hholds.2 _ hindices.2.1 hindices.2.2), by simp [hresp]⟩
    answered := nofun, finished := nofun, failed := nofun }

/-- ENCWAIT to UPDATE: B is the cipher's answer (R200). -/
theorem RunInv.encwait_move (h : RunInv p buf0 plain s) (hst : s.st = .encwait) {r : AesResp}
    (hresp : s.aesResp = some r) : RunInv p buf0 plain { s with aesResp := none, b := r.blk, st := .update } :=
  have hloop : s.st.inLoop = true := by rw [hst]; rfl
  have hformed := h.formed hst
  { h with
    busy := nofun
    untouched := nofun
    inLoop := fun _ => h.inLoop hloop
    formed := nofun
    answered := fun _ => by rw [hformed.2 r hresp, hformed.1]; rfl
    finished := nofun, failed := nofun }

/-- UPDATE to FORM or REL: one more iteration is in the buffer (R201). -/
theorem RunInv.update_move (h : RunInv p buf0 plain s) (hinv : CtrlInv p s) (hst : s.st = .update) :
    RunInv p buf0 plain s.updated := by
  have hholds := h.writtenBack_holds hinv hst
  have hindices := hinv.loopIndices (by rw [hst]; rfl)
  have hpend := hinv.pend_none (by simp [hst]) h.busy
  have houtside (a : Nat) (ha : 8 * (s.n.toNat + 1) ≤ a) : Memory.read (writtenBack s) a = Memory.read buf0 a := by
    rw [← h.outside a ha]
    exact writtenBack_read_other (by omega) (by omega)
  rcases hinv.updated_iterations hst with ⟨hform, hcount⟩ | ⟨hrel, hcount⟩
  · refine .of_form hform h.loaded h.noFault houtside ?_
    rw [State.ref, hcount]
    exact hholds
  · refine .of_rel hrel hpend h.loaded h.noFault houtside ?_
    rw [State.updated_buf, State.updated_enc, State.updated_n, ← hcount]
    exact hholds

/-- In the loop FORM never finds an unwritten byte: the buffer was fully loaded (R147, R197). -/
theorem RunInv.slot_written (h : RunInv p buf0 plain s) (hinv : CtrlInv p s) (hst : s.st = .form) :
    Memory.written s.buf (8 * s.i.toNat) 8 = true := by
  have hloop : s.st.inLoop = true := by rw [hst]; rfl
  obtain ⟨-, hi, hin⟩ := hinv.loopIndices hloop
  obtain ⟨-, hslots⟩ := h.inLoop hloop
  rw [← Memory.slot_isSome_iff, hslots _ hi hin]
  rfl

/-- A move of the Engine keeps the buffer invariant until it leads to IDLE. -/
theorem EngineMove.keeps_runInv {t : State} (hmove : EngineMove p s t) (h : RunInv p buf0 plain s)
    (hinv : CtrlInv p s) (hbusy : t.st ≠ .idle) : RunInv p buf0 plain t := by
  cases hmove with
  | acq hst _ _ _ ht => exact ht ▸ h.acq_move hst
  | setkeyOk r hst _ _ _ ht => exact ht ▸ h.setkeyOk_move hst
  | setkeyBad r hst _ _ _ ht => exact ht ▸ h.setkeyBad_move hst
  | mismatch r hresp hkind => exact absurd hkind (hinv.no_mismatch hresp)
  | init hst ht => exact ht ▸ h.init_move hst
  | unwritten hst _ _ _ hw => simp [h.slot_written hinv hst] at hw
  | form hst _ hresp _ _ ht => exact ht ▸ h.form_move hinv hst hresp _
  | encwait r hst hresp _ ht => exact ht ▸ h.encwait_move hst hresp
  | update hst _ ht => exact ht ▸ h.update_move hinv hst
  | relDone _ _ ht => exact absurd (by rw [ht]) hbusy
  | relError _ _ ht => exact absurd (by rw [ht]) hbusy

/-! ## The other agents and the buffer invariant -/

/-- Only an answer that arrives in ENCWAIT concerns the buffer invariant. -/
theorem RunInv.port_move (h : RunInv p buf0 plain s) (q : Option AesReq) (r : Option AesResp)
    (k : Option (BitVec 6 × List Byte)) (hanswer : s.st = .encwait → ∀ x, r = some x → x.blk = s.enc p s.b) :
    RunInv p buf0 plain { s with aesReq := q, aesResp := r, aesKey := k } :=
  { h with formed := fun hst => ⟨(h.formed hst).1, hanswer hst⟩ }

theorem RunInv.keeps_setKeyStep (h : RunInv p buf0 plain s) (hinv : CtrlInv p s) {kl : BitVec 6} {key : KeyField}
    (hreq : s.aesReq = some (.setKey kl key)) : RunInv p buf0 plain (setKeyStep p kl key s) := by
  rcases setKeyStep_cases p kl key s with ⟨-, ht⟩ | ⟨-, -, -, ht⟩
  · rwa [ht]
  · obtain ⟨hst, -⟩ | ⟨-, hq⟩ := hinv.request hreq
    · exact ht ▸ h.port_move _ _ _ (by rw [hst]; nofun)
    · cases hq

/-- The AES agent answers ENCWAIT with the encryption of B under the operation's KEK (R72, R177). -/
theorem RunInv.keeps_encryptStep (h : RunInv p buf0 plain s) (hinv : CtrlInv p s) {blk : Block}
    (hreq : s.aesReq = some (.encrypt blk)) : RunInv p buf0 plain (encryptStep p blk s) := by
  obtain ⟨-, hq⟩ | ⟨hst, hq⟩ := hinv.request hreq
  · cases hq
  · obtain rfl : blk = s.b := by simpa using hq
    have hkey := hinv.keyInstalled (by rw [hst]; rfl)
    rcases encryptStep_cases p s.b s with ⟨-, ht⟩ | ⟨-, -, -, hnokey, -⟩ | ⟨kl, k, -, -, -, hinstalled, ht⟩
    · rwa [ht]
    · simp [hkey] at hnokey
    · have hop : s.kekOperand = (kl, k) := by simpa [hkey] using hinstalled
      have hcipher : p.aesEnc kl k s.b = s.enc p s.b := by rw [State.enc, hop]
      exact ht ▸ h.port_move _ _ _ (by rintro - _ ⟨⟩; exact hcipher)

theorem RunInv.keeps_arbiterStep (h : RunInv p buf0 plain s) : RunInv p buf0 plain (arbiterStep s) := by
  rcases arbiterStep_cases s with ht | ⟨-, -, ht⟩
  · rwa [ht]
  · rw [ht]
    exact { h with }

theorem RunInv.keeps_hostRead (h : RunInv p buf0 plain s) (a : BusAddr) (width : Nat) :
    RunInv p buf0 plain (hostRead p a width s) := by
  rcases hostRead_cases p a width s with ⟨-, ht⟩ | ⟨x, -, ht⟩ <;> rw [ht] <;> exact { h with }

end

section
variable {s t : State} {buf0 : Memory} {plain : Nat → Slot} {e : Event}

/-- While BUSY a write of the Host is dropped or refused, so it keeps the buffer invariant (R111, R126). -/
theorem RunInv.keeps_hostWrite (h : RunInv Config.params buf0 plain s) {a : BusAddr} {width : Nat} {v : Word}
    (hstep : step (s.sched (.hostWrite a width v)) = .next t) : RunInv Config.params buf0 plain t := by
  cases hacc : access Config.params a width with
  | none =>
    rw [step_hostWrite_of_refused s v hacc] at hstep
    cases hstep
    exact { h with }
  | some x =>
    rw [step_hostWrite_of_busy h.busy v hacc] at hstep
    cases hstep
    exact h

theorem RunInv.keeps_aes (h : RunInv Config.params buf0 plain s) (hinv : CtrlInv Config.params s)
    (hstep : step (s.sched .aes) = .next t) : RunInv Config.params buf0 plain t := by
  cases hreq : s.aesReq with
  | none =>
    rw [step_aes_of_none hreq] at hstep
    cases hstep
    exact h
  | some q =>
    rw [step_aes_of_request hreq] at hstep
    cases q with
    | setKey kl key =>
      cases hstep
      exact h.keeps_setKeyStep hinv hreq
    | encrypt blk =>
      cases hstep
      exact h.keeps_encryptStep hinv hreq

/-- A step that leads to a busy state keeps the buffer invariant, whichever agent makes it. -/
theorem RunInv.keeps_step (h : RunInv Config.params buf0 plain s) (hinv : CtrlInv Config.params s)
    (hstep : step (s.sched e) = .next t) (hbusy : t.st ≠ .idle) : RunInv Config.params buf0 plain t := by
  cases e with
  | engine =>
    obtain rfl | ⟨-, hmove⟩ := step_engine_next hstep
    · exact h
    · exact hmove.keeps_runInv h hinv hbusy
  | aes => exact h.keeps_aes hinv hstep
  | arbiter => cases hstep; exact h.keeps_arbiterStep
  | hostRead a width => cases hstep; exact h.keeps_hostRead a width
  | hostWrite a width v => exact h.keeps_hostWrite hstep
  | reset => cases hstep; exact absurd rfl hbusy

/-- REL leaves BUF as it is (R152). -/
theorem step_engine_rel_buf (hst : s.st = .rel) (hstep : step (s.sched .engine) = .next t) : t.buf = s.buf := by
  rw [step_engine, hst] at hstep
  cases hstep
  rw [relStep_frame]

/-- DONE reports the source's algorithm, carried out on the buffer the WRAP found (R142, R201, R203). -/
theorem RunInv.done_means_wrapped (h : RunInv Config.params buf0 plain s) (hinv : CtrlInv Config.params s)
    (hstep : step (s.sched e) = .next t) (hdone : t.done = true) :
    bufHolds t.buf s.n.toNat (refWrap (s.enc Config.params) s.n.toNat plain (6 * s.n.toNat)) ∧
      ∀ a, 8 * (s.n.toNat + 1) ≤ a → Memory.read t.buf a = Memory.read buf0 a := by
  have hclear := (hinv.busyFlags h.busy).1
  obtain ⟨rfl, hst, hpend⟩ := (rises_and_falls (step_done_cases hstep)).1 hclear hdone
  rw [step_engine_rel_buf hst hstep]
  exact ⟨h.finished hst hpend, h.outside⟩

/-- ERR reports a failed key setup, which leaves the buffer as the WRAP found it (R145, R203). -/
theorem RunInv.err_means_untouched (h : RunInv Config.params buf0 plain s) (hinv : CtrlInv Config.params s)
    (hstep : step (s.sched e) = .next t) (herr : t.err = true) : t.buf = buf0 := by
  have hclear := (hinv.busyFlags h.busy).2
  obtain ⟨-, -, -, -, hup, -⟩ := grantAndFlagsChangeOnlyByTheirRules s t e hstep
  obtain ⟨rfl, hst, hpend, -⟩ | ⟨hidle, -⟩ := hup hclear herr
  · rw [step_engine_rel_buf hst hstep]
    exact h.failed hst hpend
  · exact absurd hidle h.busy

end

/-! ## Model faults -/

theorem FaultSet.insert_isEmpty (f : FaultSet) (r : ModelFault) : (f.insert r).isEmpty = false := by
  cases r <;> simp [FaultSet.insert, FaultSet.isEmpty]

theorem State.recordFault_ne {s : State} (hfree : s.faults.isEmpty = true) (r : ModelFault) : s.recordFault r ≠ s := by
  intro heq
  have hkept : s.faults.insert r = s.faults := congrArg State.faults heq
  rw [← hkept, FaultSet.insert_isEmpty] at hfree
  cases hfree

section
variable {s t : State} {e : Event}

/-- Only FORM records UNINIT_BUF, over a block with an unwritten byte (R147, R220). -/
theorem step_uninitBuf (hstep : step (s.sched e) = .next t)
    (hbefore : s.faults.uninitBuf = false) (hafter : t.faults.uninitBuf = true) :
    e = .engine ∧ s.st = .form ∧ Memory.written s.buf (8 * s.i.toNat) 8 = false := by
  cases step_effect s t e hstep with
  | fault r hu ht =>
    refine hu ?_
    have hmem : (s.faults.insert r).mem .uninitBuf = true := by rw [← hafter, ht]; rfl
    rcases (FaultSet.mem_insert _ _ _).1 hmem with hr | hr
    · exact hr.symm
    · simp [FaultSet.mem, hbefore] at hr
  | _ => subst_vars; cases hbefore.symm.trans hafter

/-- In the loop a slot with an unwritten byte is met only in the first round (R147). -/
theorem CtrlInv.first_round_of_unwritten {p : Params} (hinv : CtrlInv p s) (hst : s.st = .form)
    (hw : Memory.written s.buf (8 * s.i.toNat) 8 = false) : s.j = 0 := by
  have hloop : s.st.inLoop = true := by rw [hst]; rfl
  obtain ⟨-, hi, hin⟩ := hinv.loopIndices hloop
  by_contra hj
  simp [hinv.slotsWritten hloop _ hi hin (.inl hj)] at hw

end

/-! ## Progress -/

theorem State.ne_of_st_ne {s t : State} (h : t.st ≠ s.st) : t ≠ s := fun heq => h (congrArg State.st heq)

/-- A waiting request is answered by the AES agent, or its lack of a key is recorded (R176, R177). -/
theorem step_aes_moves {s : State} (hfree : s.faults.isEmpty = true) {q : AesReq} (hreq : s.aesReq = some q)
    (hresp : s.aesResp = none) : ∃ t, step (s.sched .aes) = .next t ∧ t ≠ s := by
  have hasked : s.aesAsked q = true := (State.aesAsked_iff s q).2 ⟨hfree, hreq, hresp⟩
  have hanswered {t : State} (ht : t.aesReq = none) : t ≠ s := by
    rintro rfl
    rw [ht] at hreq
    cases hreq
  rw [step_aes_of_request hreq]
  cases q with
  | setKey kl key =>
    refine ⟨_, rfl, ?_⟩
    rcases setKeyStep_cases Config.params kl key s with ⟨hheld, -⟩ | ⟨-, -, -, ht⟩
    · rw [hasked] at hheld; cases hheld
    · exact hanswered (by rw [ht])
  | encrypt blk =>
    refine ⟨_, rfl, ?_⟩
    rcases encryptStep_cases Config.params blk s with ⟨hheld, -⟩ | ⟨-, -, -, -, ht⟩ | ⟨kl, k, -, -, -, -, ht⟩
    · rw [hasked] at hheld; cases hheld
    · exact ht ▸ State.recordFault_ne hfree _
    · exact hanswered (by rw [ht])

/-- The Engine moves in every busy state in which it does not wait for the Arbiter or the AES agent (R140, R158). -/
theorem step_engine_moves {s : State} (hinv : CtrlInv Config.params s) (hfree : s.faults.isEmpty = true)
    (hbusy : s.st ≠ .idle) (hgranted : s.st = .acq → s.gnt = true)
    (hanswered : s.st = .setkey ∨ s.st = .encwait → ∃ r, s.aesResp = some r) :
    ∃ t, step (s.sched .engine) = .next t ∧ t ≠ s := by
  have hport := hinv.port_empty
  rw [step_engine]
  cases hst : s.st with
  | idle => exact absurd hst hbusy
  | acq =>
    obtain ⟨hreq, hresp⟩ := hport (by simp [hst]) (by simp [hst])
    exact ⟨_, congrArg Host.Outcome.next (acqStep_of_granted hfree hst (hgranted hst) hreq hresp),
      State.ne_of_st_ne (by simp [hst])⟩
  | setkey =>
    obtain ⟨r, hresp⟩ := hanswered (.inl hst)
    have hrop := (hinv.setkey_resp hst hresp).1
    cases hok : r.ok with
    | true =>
      exact ⟨_, congrArg Host.Outcome.next (setkeyStep_of_accepted hfree hst hresp hrop hok),
        State.ne_of_st_ne (by simp [hst])⟩
    | false =>
      exact ⟨_, congrArg Host.Outcome.next (setkeyStep_of_rejected hfree hst hresp hrop hok),
        State.ne_of_st_ne (by simp [hst])⟩
  | init =>
    exact ⟨_, congrArg Host.Outcome.next (initStep_of_init hfree hst), State.ne_of_st_ne (by simp [hst])⟩
  | form =>
    obtain ⟨hreq, hresp⟩ := hport (by simp [hst]) (by simp [hst])
    have hi := hinv.slotInBuf (by rw [hst]; rfl)
    cases hw : Memory.written s.buf (8 * s.i.toNat) 8 with
    | true => exact ⟨_, formStep_of_written hfree hst hreq hresp hi hw, State.ne_of_st_ne (by simp [hst])⟩
    | false => exact ⟨_, formStep_of_unwritten hfree hst hreq hresp hi hw, State.recordFault_ne hfree _⟩
  | encwait =>
    obtain ⟨r, hresp⟩ := hanswered (.inr hst)
    exact ⟨_, congrArg Host.Outcome.next (encwaitStep_of_answer hfree hst hresp (hinv.encwait_resp hst hresp)),
      State.ne_of_st_ne (by simp [hst])⟩
  | update =>
    refine ⟨_, updateStep_of_update hfree hst (hinv.slotInBuf (by rw [hst]; rfl)), State.ne_of_st_ne ?_⟩
    rcases hinv.updated_iterations hst with ⟨hnext, -⟩ | ⟨hnext, -⟩ <;> simp [hnext, hst]
  | rel =>
    by_cases hpend : s.pend = .none
    · exact ⟨_, congrArg Host.Outcome.next (relStep_of_success hfree hst hpend), State.ne_of_st_ne (by simp [hst])⟩
    · exact ⟨_, congrArg Host.Outcome.next (relStep_of_error hfree hst hpend), State.ne_of_st_ne (by simp [hst])⟩

/-- In SETKEY and ENCWAIT without a response a request waits (R160.2). -/
theorem CtrlInv.request_of_no_response {p : Params} {s : State} (h : CtrlInv p s)
    (hst : s.st = .setkey ∨ s.st = .encwait) (hresp : s.aesResp = none) : ∃ q, s.aesReq = some q := by
  rcases hst with hst | hst
  · rcases h.setkeyPort hst with hreq | ⟨r, hr, -⟩
    · exact ⟨_, hreq⟩
    · simp [hresp] at hr
  · rcases h.encwaitPort hst with hreq | ⟨r, hr, -⟩
    · exact ⟨_, hreq⟩
    · simp [hresp] at hr

/-! ## The count of Engine steps -/

/-- A move of the Engine is one of R157's steps, rejects the key, or records a model fault. -/
theorem EngineMove.counts_down {p : Params} {s t : State} (hmove : EngineMove p s t) (h : CtrlInv p s) :
    (t.faults = s.faults ∧ s.engineStepsLeft = t.engineStepsLeft + 1) ∨
      (t.faults = s.faults ∧ s.st = .setkey ∧ t.st = .rel) ∨ ∃ r, t = s.recordFault r := by
  have hcount (hloop : s.st.inLoop = true) : s.iterations + 1 ≤ 6 * s.n.toNat := by
    obtain ⟨hj, hi, hin⟩ := h.loopIndices hloop
    have hle := counter_le hj hin
    rw [State.iterations]
    omega
  cases hmove with
  | acq hst _ _ _ ht | setkeyOk _ hst _ _ _ ht | relDone hst _ ht | relError hst _ ht =>
    exact .inl ⟨by rw [ht], by simp [ht, State.engineStepsLeft, hst]⟩
  | setkeyBad _ hst _ _ _ ht => exact .inr (.inl ⟨by rw [ht], hst, by rw [ht]⟩)
  | mismatch _ _ _ ht | unwritten _ _ _ _ _ ht => exact .inr (.inr ⟨_, ht⟩)
  | init hst ht =>
    have hst' : t.st = .form := by rw [ht]
    have hn : t.n = s.n := by rw [ht]
    have hnone : t.iterations = 0 := by simp [ht, State.iterations]
    refine .inl ⟨by rw [ht], ?_⟩
    simp only [State.engineStepsLeft, hst, hst', hn, hnone]
    omega
  | form hst _ _ _ _ ht =>
    have hst' : t.st = .encwait := by rw [ht]
    have hn : t.n = s.n := by rw [ht]
    have hsame : t.iterations = s.iterations := by rw [ht]; rfl
    refine .inl ⟨by rw [ht], ?_⟩
    simp only [State.engineStepsLeft, hst, hst', hn, hsame]
  | encwait _ hst _ _ ht =>
    have hleft := hcount (by rw [hst]; rfl)
    have hst' : t.st = .update := by rw [ht]
    have hn : t.n = s.n := by rw [ht]
    have hsame : t.iterations = s.iterations := by rw [ht]; rfl
    refine .inl ⟨by rw [ht], ?_⟩
    simp only [State.engineStepsLeft, hst, hst', hn, hsame]
    omega
  | update hst _ ht =>
    have hleft := hcount (by rw [hst]; rfl)
    obtain rfl : t = s.updated := ht
    refine .inl ⟨rfl, ?_⟩
    rcases h.updated_iterations hst with ⟨hform, hnext⟩ | ⟨hrel, hlast⟩
    · simp only [State.engineStepsLeft, hst, hform, hnext, State.updated_n]
      omega
    · simp only [State.engineStepsLeft, hst, hrel]
      omega

/-! ## The obligations -/

/-- Settles O59: each move of the Engine and each step of another agent keeps the buffer invariant, and only REL reports. -/
theorem everyStepKeepsTheBufferInvariant : Obligations.EveryStepKeepsTheBufferInvariant := by
  intro s t buf0 plain hinv h hstep
  obtain ⟨e, s', heq, hs'⟩ := step_eq_sched s
  rw [heq] at hstep
  have hinv' : CtrlInv Config.params s' := by rw [hs']; exact { hinv with }
  have h' : RunInv Config.params buf0 plain s' := by rw [hs']; exact { h with }
  refine ⟨h'.keeps_step hinv' hstep, fun _ hdone => ?_, fun _ => h'.err_means_untouched hinv' hstep⟩
  have hwrapped := h'.done_means_wrapped hinv' hstep hdone
  rw [hs'] at hwrapped
  exact hwrapped

/-- Settles O34: INIT writes slot 0 and nothing else of BUF. -/
theorem initStartsTheLoop : Obligations.InitStartsTheLoop := by
  intro s hfree hst
  refine ⟨_, congrArg Host.Outcome.next (initStep_of_init hfree hst), rfl, fun a ha => ?_, fun a ha => ?_⟩
  · rw [← Nat.zero_add a]
    exact (Memory.read_writeSlot_same s.buf 0 aInit ha).trans (by simp [aInit])
  · exact Memory.read_writeSlot_other s.buf aInit (.inr ha)

/-- Settles O35: the formed block is the two slots' bytes and no draw is made; an unwritten byte of slot i is a fault. -/
theorem formIssuesTheEncryption : Obligations.FormIssuesTheEncryption := by
  intro s hfree hst hreq hresp hi
  refine ⟨fun a r ha hr => ⟨joinSlots a r, ?_, joinSlots_toList a r⟩, fun hunwritten => ?_⟩
  · have hw : Memory.written s.buf (8 * s.i.toNat) 8 = true := (Memory.slot_isSome_iff _ _).1 (by rw [hr]; rfl)
    have hstep := formStep_of_written hfree hst hreq hresp hi hw
    rw [formedBlock_of_slots ha hr, drawCount_of_slot ha] at hstep
    exact hstep
  · exact formStep_of_unwritten hfree hst hreq hresp hi ((Memory.written_eq_false_iff _ _ _).2 hunwritten)

/-- Settles O39: the two written slots byte by byte, and Advance by its branches. -/
theorem updateWritesBackAndAdvances : Obligations.UpdateWritesBackAndAdvances := by
  intro s hfree hst hi hmax
  have hstep := updateStep_of_update hfree hst hmax
  refine ⟨s.updated, hstep, updateStep_frame hstep, fun b => ?_, fun b => ?_, fun b => ?_, fun a ha hother => ?_,
    fun hlt => ?_, fun hlast hlt => ?_, fun hlast hfive => ?_⟩
  · rw [State.updated_buf, writtenBack_readA hi (by omega), foldCounter_of_lt]
  · rw [State.updated_buf, writtenBack_readA hi (by omega), foldCounter_of_ge, counter]
  · rw [State.updated_buf, writtenBack_readR b.isLt, loSlot_getElem]
  · rw [State.updated_buf, writtenBack_read_other ha hother]
  · exact State.updated_position (if_pos hlt)
  · exact State.updated_position ((if_neg hlast).trans (if_pos hlt))
  · exact State.updated_position ((if_neg hlast).trans (if_neg hfive))

/-- Settles O42: the frame of each step, BUF being in all of them. -/
theorem nonStoringEngineFrame : Obligations.NonStoringEngineFrame := by
  intro s t
  have hidle (h : exec .fsmIdle s = .next t) : t = s := by cases h; rfl
  have hacq (h : exec .fsmAcq s = .next t) : t = { s with aesReq := t.aesReq, st := t.st } := by
    cases h; exact acqStep_frame s
  have hsetkey (h : exec .fsmSetkey s = .next t) :
      t = { s with aesResp := t.aesResp, pend := t.pend, st := t.st, faults := t.faults } := by
    cases h; exact setkeyStep_frame s
  have hform (h : exec .fsmForm s = .next t) :
      t = { s with b := t.b, aesReq := t.aesReq, st := t.st, faults := t.faults, draws := t.draws } := formStep_frame h
  have hencwait (h : exec .fsmEncwait s = .next t) :
      t = { s with aesResp := t.aesResp, b := t.b, st := t.st, faults := t.faults } := by
    cases h; exact encwaitStep_frame s
  have hrel (h : exec .fsmRel s = .next t) :
      t = { s with st := t.st, gnt := t.gnt, done := t.done, err := t.err, errCode := t.errCode } := by
    cases h; exact relStep_frame s
  refine ⟨hidle, hacq, hsetkey, hform, hencwait, hrel, fun hany a => ?_⟩
  rcases hany with h | h | h | h | h | h
  · rw [hidle h]
  · rw [hacq h]
  · rw [hsetkey h]
  · rw [hform h]
  · rw [hencwait h]
  · rw [hrel h]

/-- Settles O43: INIT's stores lie in slot 0, UPDATE's in slot 0 and slot i. -/
theorem storingEngineFrame : Obligations.StoringEngineFrame := by
  intro s t
  refine ⟨fun h => ?_, fun h => ⟨updateStep_frame h, fun a hA hR => ?_⟩⟩
  · cases h
    refine ⟨initStep_frame s, fun a ha => ?_⟩
    rcases initStep_cases s with ht | ⟨-, -, ht⟩ <;> rw [ht]
    exact Memory.read_writeSlot_other _ _ (.inr ha)
  · rcases updateStep_buf h with hbuf | hbuf <;> rw [hbuf]
    exact writtenBack_read_other hA hR

/-- Settles O45: N_MAX is chosen so that 6n stays below 2^32. -/
theorem counterNeverWraps : Obligations.CounterNeverWraps := by
  intro n i j hn hj _ hi
  have hmax := Config.params.nMax_le
  have hle := counter_le hj hi
  rw [counter_toNat (by omega)]
  exact ⟨rfl, hle⟩

/-- Settles O46: 6n reaches 2^8, 2^16 and 2^24 from these n on. -/
theorem higherCounterBytes : Obligations.HigherCounterBytes := by
  intro n _ hn
  refine ⟨(exists_counter_byte_iff hn).trans ?_, (exists_counter_byte_iff hn).trans ?_,
    (exists_counter_byte_iff hn).trans ?_⟩ <;> omega

/-- Settles O56: where the Engine waits for the grant the Arbiter moves, and where it waits for an answer the AES agent. -/
theorem busyMachineIsNeverStuck : Obligations.BusyMachineIsNeverStuck := by
  intro s hinv hbusy hfree
  by_cases hgrant : s.st = .acq ∧ s.gnt = false
  · obtain ⟨hst, hgnt⟩ := hgrant
    have hmoved : { s with gnt := true } ≠ s := fun heq => by simp [← congrArg State.gnt heq] at hgnt
    exact ⟨.arbiter, _, .inr (.inr ⟨rfl, hst⟩), (arbiterGrantsARequest s).1 hbusy hgnt, hmoved⟩
  by_cases hwait : (s.st = .setkey ∨ s.st = .encwait) ∧ s.aesResp = none
  · obtain ⟨hst, hresp⟩ := hwait
    obtain ⟨q, hreq⟩ := hinv.request_of_no_response hst hresp
    obtain ⟨t, hstep, hmoved⟩ := step_aes_moves hfree hreq hresp
    exact ⟨.aes, t, .inr (.inl ⟨rfl, hst⟩), hstep, hmoved⟩
  · obtain ⟨t, hstep, hmoved⟩ := step_engine_moves hinv hfree hbusy
      (fun hst => by simpa [hst] using hgrant)
      (fun hst => Option.ne_none_iff_exists'.1 fun hresp => hwait ⟨hst, hresp⟩)
    exact ⟨.engine, t, .inl rfl, hstep, hmoved⟩

/-- Settles O57: only FORM records UNINIT_BUF, and from the second round on every slot is written. -/
theorem uninitBufOnlyInTheFirstRound : Obligations.UninitBufOnlyInTheFirstRound := by
  intro s t e hinv hstep hbefore hafter
  obtain ⟨he, hst, hw⟩ := step_uninitBuf hstep hbefore hafter
  exact ⟨he, hst, hinv.first_round_of_unwritten hst hw, (Memory.written_eq_false_iff _ _ _).1 hw⟩

/-- Settles O60: the count by the Engine's moves; a rejected key leaves REL, and a fault leaves the controller where it is. -/
theorem eachEngineStepCountsDown : Obligations.EachEngineStepCountsDown := by
  intro s t hinv _ hstep hmoved
  obtain ⟨hfree, hmove⟩ := (step_engine_next hstep).resolve_left hmoved
  refine ⟨fun hst => by rw [State.engineStepsLeft, hst], fun hst => by rw [State.engineStepsLeft, hst],
    fun htfree hnot => ?_, fun _ _ hst => by rw [State.engineStepsLeft, hst], fun hfault => ?_⟩
  · rcases hmove.counts_down hinv with ⟨-, hcount⟩ | ⟨-, hrejected⟩ | ⟨r, rfl⟩
    · exact hcount
    · exact absurd hrejected hnot
    · simp [FaultSet.insert_isEmpty] at htfree
  · rcases hmove.counts_down hinv with ⟨hkept, -⟩ | ⟨hkept, -⟩ | ⟨r, rfl⟩
    · simp [hkept, hfree] at hfault
    · simp [hkept, hfree] at hfault
    · rfl

/-- Settles O32: the enabled step of ACQ. -/
theorem acqIssuesTheKeySetup : Obligations.AcqIssuesTheKeySetup := fun _ hfree hst hgnt hreq hresp =>
  congrArg Host.Outcome.next (acqStep_of_granted hfree hst hgnt hreq hresp)

/-- Settles O33: the enabled step of SETKEY, by the OK bit. -/
theorem setkeyConsumesTheResponse : Obligations.SetkeyConsumesTheResponse := fun _ _ hfree hst hresp hrop =>
  ⟨fun hok => congrArg Host.Outcome.next (setkeyStep_of_accepted hfree hst hresp hrop hok),
    fun hok => congrArg Host.Outcome.next (setkeyStep_of_rejected hfree hst hresp hrop hok)⟩

/-- Settles O37: the enabled step of ENCWAIT does not read the OK bit. -/
theorem encwaitTakesTheBlock : Obligations.EncwaitTakesTheBlock := fun _ _ hfree hst hresp hrop =>
  congrArg Host.Outcome.next (encwaitStep_of_answer hfree hst hresp hrop)

/-- Settles O40: the enabled step of REL, by PEND. -/
theorem relReleasesAndReports : Obligations.RelReleasesAndReports := fun _ hfree hst =>
  ⟨fun hpend => congrArg Host.Outcome.next (relStep_of_success hfree hst hpend),
    fun hpend => congrArg Host.Outcome.next (relStep_of_error hfree hst hpend)⟩

end Sys2Proof.Machine

/-! # Proofs of the AES-serializer statements (spec/43_aes_serializer.md)

First what the AES agent makes of a request that waits for it; then what the Engine makes of a response of another kind than its
state waits for; then one theorem per obligation. -/

namespace Sys2Proof.Machine

section
variable {s : State} (hfree : s.faults.isEmpty = true)
include hfree

/-! ## The AES agent over a waiting request -/

theorem aesAsked_of_request {q : AesReq} (hreq : s.aesReq = some q) (hresp : s.aesResp = none) : s.aesAsked q = true :=
  (State.aesAsked_iff s q).2 ⟨hfree, hreq, hresp⟩

/-- A waiting key setup is answered by `keyOk`, and an accepted key is installed (R176). -/
theorem setKeyStep_of_asked (p : Params) {kl : BitVec 6} {key : KeyField} (hreq : s.aesReq = some (.setKey kl key))
    (hresp : s.aesResp = none) :
    setKeyStep p kl key s = { s with
      aesReq := none
      aesResp := some ⟨.setKey, p.keyOk kl (keyBytes kl key), vec 16 fun _ => 0⟩
      aesKey := if p.keyOk kl (keyBytes kl key) = true then some (kl, keyBytes kl key) else none } := by
  rw [setKeyStep, if_pos (aesAsked_of_request hfree hreq hresp)]
  rfl

/-- A waiting encryption under an installed key is answered with the cipher's block (R177, R178). -/
theorem encryptStep_of_key (p : Params) {blk : Block} (hreq : s.aesReq = some (.encrypt blk)) (hresp : s.aesResp = none)
    {kl : BitVec 6} {k : List Byte} (hkey : s.aesKey = some (kl, k)) :
    encryptStep p blk s = { s with aesReq := none, aesResp := some ⟨.encrypt, true, p.aesEnc kl k blk⟩ } := by
  simp [encryptStep, aesAsked_of_request hfree hreq hresp, hkey, State.respond]

/-- A waiting encryption with no key installed records AES_NOKEY (R177). -/
theorem encryptStep_of_no_key (p : Params) {blk : Block} (hreq : s.aesReq = some (.encrypt blk))
    (hresp : s.aesResp = none) (hkey : s.aesKey = none) : encryptStep p blk s = s.recordFault .aesNoKey := by
  simp [encryptStep, aesAsked_of_request hfree hreq hresp, hkey]

/-! ## The Engine over a response of another kind -/

/-- SETKEY records an encryption's answer as a model fault (R175). -/
theorem setkeyStep_of_encrypt_response {r : AesResp} (hst : s.st = .setkey) (hresp : s.aesResp = some r)
    (hrop : r.rop = .encrypt) : setkeyStep s = s.recordFault .aesProtocol := by
  simp [setkeyStep, engineIn_of_st hfree hst, hresp, hrop]

/-- ENCWAIT records a key setup's answer as a model fault (R175). -/
theorem encwaitStep_of_setKey_response {r : AesResp} (hst : s.st = .encwait) (hresp : s.aesResp = some r)
    (hrop : r.rop = .setKey) : encwaitStep s = s.recordFault .aesProtocol := by
  simp [encwaitStep, engineIn_of_st hfree hst, hresp, hrop]

end

/-! ## The obligations -/

/-- Settles O28: the enabled key setup; `keyBytes` is the first KLEN bytes of the key operand. -/
theorem setKeyAnswered : Obligations.SetKeyAnswered := fun _ _ _ hfree hreq hresp =>
  congrArg Host.Outcome.next (setKeyStep_of_asked hfree Config.params hreq hresp)

/-- Settles O29: the enabled encryption, by whether a key is installed. -/
theorem encryptAnswered : Obligations.EncryptAnswered := fun _ _ hfree hreq hresp =>
  ⟨fun _ _ hkey => congrArg Host.Outcome.next (encryptStep_of_key hfree Config.params hreq hresp hkey),
    fun hkey => congrArg Host.Outcome.next (encryptStep_of_no_key hfree Config.params hreq hresp hkey)⟩

/-- Settles O38: the enabled steps of SETKEY and ENCWAIT, each over the other's response. -/
theorem mismatchedResponseRecorded : Obligations.MismatchedResponseRecorded := fun _ _ hfree hresp =>
  ⟨fun hst hrop => congrArg Host.Outcome.next (setkeyStep_of_encrypt_response hfree hst hresp hrop),
    fun hst hrop => congrArg Host.Outcome.next (encwaitStep_of_setKey_response hfree hst hresp hrop)⟩

end Sys2Proof.Machine

/-! # Proofs of the reset statements (spec/70_reset_and_hazards.md)

What a reset event does, and what STATUS reads when nothing runs and nothing is reported; then the obligation. -/

namespace Sys2Proof.Machine

/-- A reset event finds no instruction; its plain effect is `resetStep` (R240). -/
theorem step_reset (s : State) : step (s.sched .reset) = .next (resetStep s) := by
  rw [step_sched, instrOf, plainStep]

/-- STATUS reads zero in IDLE with both flags down and no error code (R82). -/
theorem statusWord_eq_zero {s : State} (hst : s.st = .idle) (hdone : s.done = false) (herr : s.err = false)
    (hcode : s.errCode = .none) : s.statusWord = 0x00000000 := by
  rw [statusWord_fields, State.busy, hst, hdone, herr, hcode]
  rfl

/-! ## The obligation -/

/-- Settles O9: what R240 resets takes its value from `State.reset`, whose values O8 states, and `resetStep` copies the faults
and the refusal mark; STATUS then has nothing to show. -/
theorem resetEventFromAnyState : Obligations.ResetEventFromAnyState := by
  intro s
  obtain ⟨hn, hkekLen, hkek, hst, hdone, herr, hcode, hpend, hj, hi, hb, hbuf, hreq, hresp, hkey, hgnt, -⟩ := resetValues
  exact ⟨resetStep s, step_reset s, hn, hkekLen, hkek, hst, hdone, herr, hcode, hpend, hj, hi, hb, hbuf, hreq, hresp, hkey,
    hgnt, rfl, rfl, statusWord_eq_zero hst hdone herr hcode⟩

end Sys2Proof.Machine
